-- ==== Sys2Proof/Word.lean ====
section
/-! DEFINITION. The machine's words: the unsigned integers of N bits of 00_scope.md R11. -/

namespace Sys2Proof

/-- A byte (R11). -/
abbrev Byte := BitVec 8

/-- `u8` of R11: `retryCount` and `maxRetries` (R9, `RetryWidth`). -/
abbrev U8 := BitVec 8

/-- `u16` of R11: packet numbers, sizes, fragment counts and indices, checksums. -/
abbrev U16 := BitVec 16

/-- `u32` of R11: stream ids and ticks (R9, `TickWidth`). -/
abbrev U32 := BitVec 32

end Sys2Proof
end

