-- ==== Sys2Proof/Config.lean ====
section
/-! DEFINITION. What is fixed for the life of an instance (00_scope.md R8, R9), and the free values: the answers of the
two collaborators that answer (R14). -/

namespace Sys2Proof

/-- `HeaderSize` of R8: the sum of the widths of the header's fields, 2+1+2+4+2+2. -/
abbrev headerSize : Nat := 13

/-- `ChecksumSize` of R8. -/
abbrev checksumSize : Nat := 2

/-- `MinFrameSize` of R8. -/
abbrev minFrameSize : Nat := headerSize + checksumSize

/-- `TypeCode` of R75 as plain data: the byte that stands for each of the five frame types. Default: R75's table. -/
structure TypeCodes where
  singleData : Byte := 0x00
  fragmentData : Byte := 0x01
  ack : Byte := 0x02
  nack : Byte := 0x03
  singleNoAck : Byte := 0x04
deriving DecidableEq, Repr

/-- R75: `TypeCode` is "required injective". -/
abbrev TypeCodes.Injective (t : TypeCodes) : Prop :=
  [t.singleData, t.fragmentData, t.ack, t.nack, t.singleNoAck].Nodup

/-- The construction-time constants of one instance (R8, R9). -/
structure Config where
  /-- `MaxPacketSize`: the largest frame on the wire, in bytes (R8). -/
  maxPacketSize : Nat
  /-- `MaxQueuedPackets`: the capacity of the outbound queue, not counting the current slot (R8). -/
  maxQueuedPackets : Nat
  /-- `MaxStreams`: the number of slots of the stream table (R9). -/
  maxStreams : Nat
  /-- `StreamTimeoutTicks`: the inactivity threshold of the sweep (R9). -/
  streamTimeoutTicks : Nat
  /-- `RxBufferSize`: the capacity of the receive ring, in bytes (R9). -/
  rxBufferSize : Nat
  /-- `TypeCode` (R75). -/
  typeCodes : TypeCodes := {}
deriving DecidableEq, Repr

/-- `MaxPayload` of R8: `MaxPacketSize - HeaderSize - ChecksumSize`. -/
def Config.maxPayload (c : Config) : Nat := c.maxPacketSize - minFrameSize

/-- The bounds of R8, R9 and R75 that R273 makes construction-time requirements. -/
abbrev Config.Valid (c : Config) : Prop :=
  16 ≤ c.maxPacketSize ∧ c.maxPacketSize ≤ 65550 ∧
  1 ≤ c.maxQueuedPackets ∧ c.maxQueuedPackets ≤ 65535 ∧
  1 ≤ c.maxStreams ∧
  c.streamTimeoutTicks < 2 ^ 31 ∧
  c.maxPacketSize ≤ c.rxBufferSize ∧
  c.typeCodes.Injective

/-- `CFG64` of R10. -/
def Config.cfg64 : Config :=
  { maxPacketSize := 64, maxQueuedPackets := 4, maxStreams := 2, streamTimeoutTicks := 3, rxBufferSize := 64 }

/-- `CFG35` of R10. -/
def Config.cfg35 : Config :=
  { maxPacketSize := 35, maxQueuedPackets := 8, maxStreams := 2, streamTimeoutTicks := 3, rxBufferSize := 35 }

/-- `CFG35Q2` of R10. -/
def Config.cfg35q2 : Config := { Config.cfg35 with maxQueuedPackets := 2 }

/-- `CFG64Q8` of R10. -/
def Config.cfg64q8 : Config := { Config.cfg64 with maxQueuedPackets := 8 }

/-- The configuration of `State.reset`. DESIGN CHOICE (log 1): the spec leaves the sizes open and R10 says its reference
configurations are no values of the hardware; no statement rests on this one. -/
def Config.reference : Config := Config.cfg64

/-- FREE VALUE (log 6): what `TX` answers at its n-th question when State lists no answer for it. R14: no rule
constrains the answers. -/
opaque Config.freeTxAnswer : Nat → Bool

/-- FREE VALUE (log 6): what `DELIVER` answers at its n-th question when State lists no answer for it (R14). -/
opaque Config.freeDeliverAnswer : Nat → Bool

end Sys2Proof
end

