-- ==== Sys2Proof/Syntax.lean ====
section
/-! DEFINITION. The instructions (the ten rows of opcode_table.json) and the forms they are encoded in. -/

namespace Sys2Proof

/-- The five frame types of R75. -/
inductive FrameType
  | singleData | fragmentData | ack | nack | singleNoAck
deriving DecidableEq, Repr

/-- A header value (R30), "fields in this order". -/
structure Header where
  packetNumber : U16
  type : FrameType
  payloadSize : U16
  streamId : U32
  totalFragments : U16
  fragmentIndex : U16
deriving DecidableEq, Repr

/-- An instruction in the sense of R3: the reception of one wire frame of one of the five types (its header fields as
received and its payload; `type` is the constructor and `payloadSize` the payload's length), or one host command with its
arguments (R80). -/
inductive Instr
  /-- `SingleData` (R133). -/
  | singleData (pn : U16) (sid : U32) (tf fi : U16) (payload : List Byte)
  /-- `FragmentData` (R180). -/
  | fragmentData (pn : U16) (sid : U32) (tf fi : U16) (payload : List Byte)
  /-- `Ack` (R200). -/
  | ack (pn : U16) (sid : U32) (tf fi : U16) (payload : List Byte)
  /-- `Nack` (R200). -/
  | nack (pn : U16) (sid : U32) (tf fi : U16) (payload : List Byte)
  /-- `SingleNoAck` (R134). -/
  | singleNoAck (pn : U16) (sid : U32) (tf fi : U16) (payload : List Byte)
  /-- `SEND(payload, maxRetries, retryOnNack)` (R152). -/
  | send (payload : List Byte) (maxRetries : U8) (retryOnNack : Bool)
  /-- `SEND_NOACK(payload)` (R156). -/
  | sendNoAck (payload : List Byte)
  /-- `FEED(byte)` (R122). -/
  | feed (byte : Byte)
  /-- `DATA_RECEIVED(bytes)` (R121). -/
  | dataReceived (bytes : List Byte)
  /-- `PROCESS()` (R160). -/
  | process
deriving DecidableEq, Repr

/-- One command as it stands at the host port: the 4-bit tag of R80 and the arguments beside it. The spec encodes the tag
only (R80, R83); the arguments are transaction-level values (R7). DESIGN CHOICE (log 4): one lane per kind of argument;
a command reads its own lanes and no other. -/
structure CommandWord where
  tag : BitVec 4
  bytes : List Byte := []
  maxRetries : U8 := 0
  retryOnNack : Bool := false
  byte : Byte := 0
deriving DecidableEq, Repr

/-- The two formats of opcode_table.json (R83): a frame as its bytes on the wire, a command as a word of the host port. -/
inductive Encoded
  | frame (bytes : List Byte)
  | command (word : CommandWord)
deriving DecidableEq, Repr

end Sys2Proof
end

