-- ==== Sys2Proof/WellFormed.lean ====
section
/-! DEFINITION. Which instructions an instance has: the one bound of R72 on a frame's payload. -/

namespace Sys2Proof

/-- R72: "Invariant: `payloadSize ≤ MaxPayload`". A frame instruction carries at most `MaxPayload` payload bytes; a host
command has no bound on its arguments (R121: "of any length"; R152: `L ≥ 0`; R156 gives an oversize call its result). -/
def Instr.wf (c : Config) : Instr → Bool
  | .singleData _ _ _ _ p => decide (p.length ≤ c.maxPayload)
  | .fragmentData _ _ _ _ p => decide (p.length ≤ c.maxPayload)
  | .ack _ _ _ _ p => decide (p.length ≤ c.maxPayload)
  | .nack _ _ _ _ p => decide (p.length ≤ c.maxPayload)
  | .singleNoAck _ _ _ _ p => decide (p.length ≤ c.maxPayload)
  | .send _ _ _ => true
  | .sendNoAck _ => true
  | .feed _ => true
  | .dataReceived _ => true
  | .process => true

end Sys2Proof
end

