-- ==== Sys2Proof/Decode.lean ====
section
/-! DEFINITION. The framing codec (40_framing_codec.md), the decoder and the encoder of instructions, and the opcode table
of 30_encoding.md R83. -/

namespace Sys2Proof

/-! Byte order (R12, R54). -/

/-- `le16(B, i)` of R12. -/
def le16 (b : List Byte) (i : Nat) : U16 :=
  b.getD (i + 1) 0 ++ b.getD i 0

/-- `le32(B, i)` of R12. -/
def le32 (b : List Byte) (i : Nat) : U32 :=
  (b.getD (i + 3) 0 ++ b.getD (i + 2) 0) ++ (b.getD (i + 1) 0 ++ b.getD i 0)

/-- `bytes16(v)` of R12. -/
def bytes16 (v : U16) : List Byte :=
  [v.extractLsb' 0 8, v.extractLsb' 8 8]

/-- `bytes32(v)` of R12. -/
def bytes32 (v : U32) : List Byte :=
  [v.extractLsb' 0 8, v.extractLsb' 8 8, v.extractLsb' 16 8, v.extractLsb' 24 8]

/-! Crc16 (R100). PRESUMED by the spec itself (log 2): polynomial 0x1021, initial value 0xFFFF, nothing reflected, final
XOR 0. -/

/-- One bit of R100's inner loop. -/
def crcBit (c : U16) : U16 :=
  if c.msb then (c <<< 1) ^^^ 0x1021#16 else c <<< 1

/-- "repeat 8 times" of R100, for any count. -/
def crcBits : Nat → U16 → U16
  | 0, c => c
  | n + 1, c => crcBits n (crcBit c)

/-- One byte of R100's outer loop. -/
def crcByte (c : U16) (b : Byte) : U16 :=
  crcBits 8 (c ^^^ (b.zeroExtend 16 <<< 8))

/-- `Crc16(B)` of R100. -/
def crc16 (b : List Byte) : U16 :=
  b.foldl crcByte 0xFFFF#16

/-! Type codes (R75, R77). -/

/-- `TypeCode(t)`. -/
def typeCode (c : Config) : FrameType → Byte
  | .singleData => c.typeCodes.singleData
  | .fragmentData => c.typeCodes.fragmentData
  | .ack => c.typeCodes.ack
  | .nack => c.typeCodes.nack
  | .singleNoAck => c.typeCodes.singleNoAck

/-- The type a code stands for; none for an illegal code (R77). -/
def typeOfCode (c : Config) (b : Byte) : Option FrameType :=
  if b = c.typeCodes.singleData then some .singleData
  else if b = c.typeCodes.fragmentData then some .fragmentData
  else if b = c.typeCodes.ack then some .ack
  else if b = c.typeCodes.nack then some .nack
  else if b = c.typeCodes.singleNoAck then some .singleNoAck
  else none

/-! Encode (R101, R102). -/

/-- The 13 header bytes `H` of R102. -/
def headerBytes (c : Config) (h : Header) : List Byte :=
  bytes16 h.packetNumber ++ [typeCode c h.type] ++ bytes16 h.payloadSize ++ bytes32 h.streamId ++
    bytes16 h.totalFragments ++ bytes16 h.fragmentIndex

/-- A byte sequence with its checksum appended, low byte first (R74). -/
def sealBytes (d : List Byte) : List Byte :=
  d ++ bytes16 (crc16 d)

/-- The frame of R102. -/
def frameBytes (c : Config) (h : Header) (p : List Byte) : List Byte :=
  sealBytes (headerBytes c h ++ p)

/-- The precondition of `Encode` (R101). -/
def encodable (c : Config) (h : Header) (p : List Byte) : Bool :=
  h.payloadSize.toNat == p.length && decide (p.length ≤ c.maxPayload)

/-- `Encode(h, p)`; none outside its precondition, where it "has no meaning and a model refuses it" (R101). -/
def encodeFrame (c : Config) (h : Header) (p : List Byte) : Option (List Byte) :=
  if encodable c h p then some (frameBytes c h p) else none

/-! Decode (R103 to R107). -/

/-- What `Decode` answers (R103). -/
inductive DecodeResult
  | ok (h : Header) (p : List Byte)
  | frameInvalid
  | checksumMismatch
deriving DecidableEq, Repr

/-- The header a byte sequence holds, of a given type (R107). -/
def headerAt (t : FrameType) (b : List Byte) : Header :=
  { packetNumber := le16 b 0, type := t, payloadSize := le16 b 3, streamId := le32 b 5,
    totalFragments := le16 b 9, fragmentIndex := le16 b 11 }

/-- `Decode(B)`: length (R104), then checksum (R105), then fields (R106), then success (R107). -/
def decodeFrame (c : Config) (b : List Byte) : DecodeResult :=
  if b.length < minFrameSize then .frameInvalid
  else if crc16 (b.take (b.length - checksumSize)) ≠ le16 b (b.length - checksumSize) then .checksumMismatch
  else if (le16 b 3).toNat ≠ b.length - minFrameSize ∨ c.maxPayload < (le16 b 3).toNat then .frameInvalid
  else
    match typeOfCode c (b.getD 2 0) with
    | none => .frameInvalid
    | some t => .ok (headerAt t b) ((b.take (b.length - checksumSize)).drop headerSize)

/-! The instruction a frame or a command word stands for (R3, R80). -/

/-- The reception of a decoded frame, as an instruction. -/
def instrOfFrame (h : Header) (p : List Byte) : Instr :=
  match h.type with
  | .singleData => .singleData h.packetNumber h.streamId h.totalFragments h.fragmentIndex p
  | .fragmentData => .fragmentData h.packetNumber h.streamId h.totalFragments h.fragmentIndex p
  | .ack => .ack h.packetNumber h.streamId h.totalFragments h.fragmentIndex p
  | .nack => .nack h.packetNumber h.streamId h.totalFragments h.fragmentIndex p
  | .singleNoAck => .singleNoAck h.packetNumber h.streamId h.totalFragments h.fragmentIndex p

/-- Why an encoded instruction is rejected. -/
inductive DecodeError
  /-- A frame that `Decode` calls `FrameInvalid` (R104, R106). -/
  | frameInvalid
  /-- A frame whose checksum does not match (R105). -/
  | checksumMismatch
  /-- A tag outside R80's five. -/
  | illegalCommandTag (tag : BitVec 4)
deriving DecidableEq, Repr

/-- The command a word of the host port stands for: the tags of R80. -/
def decodeCommand (w : CommandWord) : Except DecodeError Instr :=
  match w.tag.toNat with
  | 0 => .ok (.send w.bytes w.maxRetries w.retryOnNack)
  | 1 => .ok (.sendNoAck w.bytes)
  | 2 => .ok (.feed w.byte)
  | 3 => .ok (.dataReceived w.bytes)
  | 4 => .ok .process
  | _ => .error (.illegalCommandTag w.tag)

/-- The decoder, total on any bytes and any command word. -/
def decode (c : Config) : Encoded → Except DecodeError Instr
  | .frame b =>
    match decodeFrame c b with
    | .ok h p => .ok (instrOfFrame h p)
    | .frameInvalid => .error .frameInvalid
    | .checksumMismatch => .error .checksumMismatch
  | .command w => decodeCommand w

/-- The header of a frame instruction (R30): `payloadSize` is the payload's length (R82). -/
def frameHeader (t : FrameType) (pn : U16) (sid : U32) (tf fi : U16) (p : List Byte) : Header :=
  { packetNumber := pn, type := t, payloadSize := BitVec.ofNat 16 p.length, streamId := sid,
    totalFragments := tf, fragmentIndex := fi }

/-- The encoder: R102 for a frame, R80 for a command. -/
def encode (c : Config) : Instr → Encoded
  | .singleData pn sid tf fi p => .frame (frameBytes c (frameHeader .singleData pn sid tf fi p) p)
  | .fragmentData pn sid tf fi p => .frame (frameBytes c (frameHeader .fragmentData pn sid tf fi p) p)
  | .ack pn sid tf fi p => .frame (frameBytes c (frameHeader .ack pn sid tf fi p) p)
  | .nack pn sid tf fi p => .frame (frameBytes c (frameHeader .nack pn sid tf fi p) p)
  | .singleNoAck pn sid tf fi p => .frame (frameBytes c (frameHeader .singleNoAck pn sid tf fi p) p)
  | .send p mr ron => .command { tag := 0, bytes := p, maxRetries := mr, retryOnNack := ron }
  | .sendNoAck p => .command { tag := 1, bytes := p }
  | .feed b => .command { tag := 2, byte := b }
  | .dataReceived bs => .command { tag := 3, bytes := bs }
  | .process => .command { tag := 4 }

/-! The opcode table (R83), as opcode_table.json writes it. -/

/-- The match and mask of one row: 13 header bytes in wire order, or the 4-bit tag. -/
inductive RowPattern
  | frame (pattern mask : List Byte)
  | cmd (pattern mask : BitVec 4)
deriving DecidableEq, Repr

/-- R83: the mask of every `FRAME` row, `0000FF00000000000000000000`. -/
def frameMask : List Byte := [0, 0, 0xFF, 0, 0, 0, 0, 0, 0, 0, 0, 0, 0]

/-- R83: a `FRAME` row's match has the type code at byte 2. -/
def framePattern (code : Byte) : List Byte := [0, 0, code, 0, 0, 0, 0, 0, 0, 0, 0, 0, 0]

/-- The row of an instruction. -/
def tableRow : Instr → RowPattern
  | .singleData _ _ _ _ _ => .frame (framePattern 0x00) frameMask
  | .fragmentData _ _ _ _ _ => .frame (framePattern 0x01) frameMask
  | .ack _ _ _ _ _ => .frame (framePattern 0x02) frameMask
  | .nack _ _ _ _ _ => .frame (framePattern 0x03) frameMask
  | .singleNoAck _ _ _ _ _ => .frame (framePattern 0x04) frameMask
  | .send _ _ _ => .cmd 0x0 0xF
  | .sendNoAck _ => .cmd 0x1 0xF
  | .feed _ => .cmd 0x2 0xF
  | .dataReceived _ => .cmd 0x3 0xF
  | .process => .cmd 0x4 0xF

/-- Whether an encoded instruction fits a row: its masked bits equal the row's match. -/
def rowMatches : RowPattern → Encoded → Bool
  | .frame pattern mask, .frame b => List.zipWith (· &&& ·) b mask == pattern
  | .cmd pattern mask, .command w => w.tag &&& mask == pattern
  | _, _ => false

/-! The host's question about one word of the table. -/

/-- Byte `i` of a number that holds byte 0 in its least significant bits. -/
def byteOf (w i : Nat) : Byte := BitVec.ofNat 8 (w >>> (8 * i))

/-- The frame whose header (and payload, where the number goes on) is the number `w`, sealed with the checksum a frame
must carry to be run at all. A declared size above `MaxPayload` gives no payload bytes: no such frame is ever assembled
(R125). DESIGN CHOICE (log 9). -/
def tableFrame (c : Config) (w : Nat) : List Byte :=
  let h := (List.range headerSize).map (byteOf w)
  let ps := (le16 h 3).toNat
  sealBytes (h ++ (List.range (if ps ≤ c.maxPayload then ps else 0)).map fun i => byteOf w (headerSize + i))

/-- The encoded instruction whose bits are `w`: a row of one byte is a command tag (arguments zero), a row of 13 bytes or
more a frame; a number that fits neither format is none. -/
def tableEncoded (c : Config) (nbits w : Nat) : Option Encoded :=
  if nbits ≤ 8 then
    if w < 16 then some (.command { tag := BitVec.ofNat 4 w }) else none
  else if 8 * headerSize ≤ nbits then some (.frame (tableFrame c w))
  else none

/-- The instruction the decoder reads from a word of opcode_table.json. -/
def decodeTableWord (nbits w : Nat) : Option Instr :=
  match tableEncoded Config.reference nbits w with
  | some e => (decode Config.reference e).toOption
  | none => none

end Sys2Proof
end

