-- ==== Sys2Proof/Machine/State.lean ====
section
/-! DEFINITION. The state of one engine instance (10_state.md), the host's side of the interface, the reasons a step can
stop, and reset (R40). -/

namespace Sys2Proof.Machine

/-- A pending packet (R29): an entry of the outbound queue or of the current slot. -/
structure PendingPacket where
  header : Header
  payload : List Byte
  retryCount : U8
  maxRetries : U8
  retryOnNack : Bool
  /-- R37: written, and read by no rule. -/
  enqueueTick : U32
deriving DecidableEq, Repr

/-- A slot of the stream table (R33). `completed` makes it free. -/
structure StreamSlot where
  streamId : U32
  totalFragments : U16
  lastActivityTick : U32
  completed : Bool
deriving DecidableEq, Repr

/-- A slot as reset leaves it (R33, R40). -/
def StreamSlot.free : StreamSlot :=
  { streamId := 0, totalFragments := 0, lastActivityTick := 0, completed := true }

/-- `SendOutcome` (R35). -/
inductive SendOutcome
  | success | bufferFull
deriving DecidableEq, Repr

/-- `SendResult` (R35): what `SEND` and `SEND_NOACK` return. -/
structure SendResult where
  outcome : SendOutcome
  streamId : U32
  fragmentCount : U16
deriving DecidableEq, Repr

/-- `CompletionResult` (R36): the result `COMPLETE` carries. -/
inductive CompletionResult
  | success | retryExceeded | rejected | error | timeout
deriving DecidableEq, Repr

/-- A call of the block to a collaborator: an "observable output event" (R14), one constructor for each of the three
(R58, R59, R60). -/
inductive Event
  | tx (frame : List Byte)
  | deliver (streamId : U32) (fragmentIndex totalFragments : U16) (payload : List Byte)
  | complete (streamId : U32) (result : CompletionResult)
deriving DecidableEq, Repr

/-- The host's side of the interface. The MODEL's own fields (R20: inputs and outputs of a step, no state of the block). -/
@[ext]
structure HostSide where
  /-- The commands at the port, the next one first (log 5). -/
  commands : List CommandWord := []
  /-- The answers `TX` gives to its next calls (R14, R58; log 6). -/
  txAnswers : List Bool := []
  /-- The answers `DELIVER` gives to its next calls (R14, R59; log 6). -/
  deliverAnswers : List Bool := []
  /-- How many answers were asked for: the index of the free value of the next answer (log 6). -/
  answersAsked : Nat := 0
  /-- The collaborator calls made so far, oldest first (log 7). -/
  events : List Event := []
  /-- What the command run last returned: none for a command that returns nothing (R80; log 7). -/
  returned : Option SendResult := none
deriving DecidableEq, Repr

/-- The state: the constant configuration, the tuple of R20, and the host's side. -/
@[ext]
structure State where
  /-- The construction-time constants (R27: "read-only for the life of the instance"). -/
  cfg : Config
  /-- The receive ring (R34), head first. -/
  rx : List Byte
  /-- The outbound queue (R28), head first. -/
  txq : List PendingPacket
  /-- The current slot (R25). -/
  cur : Option PendingPacket
  /-- The stream table (R32), slot 0 first. -/
  streams : List StreamSlot
  /-- The number the next data packet takes (R22). -/
  nextPacketNumber : U16
  /-- The id the next fragmented `SEND` takes (R23). -/
  nextStreamId : U32
  /-- The logical time (R24). -/
  tick : U32
  /-- The host's side of the interface (the model's own). -/
  io : HostSide
deriving DecidableEq, Repr

/-- Why the machine stops with a fault: never. R241: "The block has no halted state, no fault state and no state from
which a command has no step". The type has no constructor, so no definition can raise one (log 14). -/
inductive Fault
deriving DecidableEq, Repr

/-- Why the machine has no meaning for what it is asked. -/
inductive Refusal
  /-- An instruction without a meaning in this model, raised by an arm of exec only. Safe: the machine stops. No arm
  raises it. -/
  | notModelled (mnemonic : String)
  /-- Raised by step for a word at the command port whose tag is none of the five of R80. Safe: the machine stops. -/
  | illegalCommandTag (tag : BitVec 4)
  /-- Raised by PROCESS when the packet in the current slot is outside the precondition of `Encode`, which the spec has
  refused (R101, U4). No engine path makes such a packet. Safe: the machine stops. -/
  | encodeOutsidePrecondition
  /-- Raised by construct for a configuration outside the bounds of R8, R9, R75, which the spec has refused (R273, U7).
  Safe: no machine is built. -/
  | invalidConfiguration
deriving DecidableEq, Repr

/-- The state after construction with a configuration (R40, R270, R271: "one initial state per configuration"). -/
def State.resetWith (c : Config) : State :=
  { cfg := c, rx := [], txq := [], cur := none, streams := List.replicate c.maxStreams StreamSlot.free,
    nextPacketNumber := 0, nextStreamId := 1, tick := 0, io := {} }

/-- The machine right after reset (R40), for the configuration of log 1. -/
def State.reset : State := State.resetWith Config.reference

end Sys2Proof.Machine
end

