-- ==== Sys2Proof/Machine/Operands.lean ====
section
/-! DEFINITION. What the operations are given: the headers and entries the block builds (30_encoding.md R76,
42_outbound_queue.md R151, R166), the fragments of a payload (R154), and the numeric codes of R80 and R81. -/

namespace Sys2Proof.Machine

/-- The entry `EnqueueData` pushes (R151). -/
def dataEntry (t : FrameType) (pn : U16) (p : List Byte) (sid : U32) (tf fi : U16) (mr : U8) (ron : Bool) (now : U32) :
    PendingPacket :=
  { header := frameHeader t pn sid tf fi p, payload := p, retryCount := 0, maxRetries := mr, retryOnNack := ron,
    enqueueTick := now }

/-- The two types of a reply (R16). -/
inductive ReplyType
  | ack | nack
deriving DecidableEq, Repr

/-- The frame type of a reply. -/
def ReplyType.frameType : ReplyType → FrameType
  | .ack => .ack
  | .nack => .nack

/-- The reply to an answer of `DELIVER`: "Ack on accept, Nack on reject" (R133, R186, R187). -/
def replyTo (accepted : Bool) : ReplyType :=
  if accepted then .ack else .nack

/-- The entry `Reply` pushes (R166): the number answered, no payload, every other header field 0 (R76). -/
def replyEntry (t : ReplyType) (pn : U16) (now : U32) : PendingPacket :=
  { header := { packetNumber := pn, type := t.frameType, payloadSize := 0, streamId := 0, totalFragments := 0,
                fragmentIndex := 0 },
    payload := [], retryCount := 0, maxRetries := 0, retryOnNack := false, enqueueTick := now }

/-- `N = ceil(L / MaxPayload)` of R154. -/
def fragmentCount (c : Config) (len : Nat) : Nat :=
  (len + c.maxPayload - 1) / c.maxPayload

/-- Fragment `i` of R154: `payload[i*MaxPayload .. min((i+1)*MaxPayload, L))`. -/
def fragment (c : Config) (p : List Byte) (i : Nat) : List Byte :=
  (p.drop (i * c.maxPayload)).take c.maxPayload

/-- The stream id after this one (R23): "the successor of `0xFFFFFFFF` is 1". -/
def nextStreamIdAfter (sid : U32) : U32 :=
  if sid = 0xFFFFFFFF#32 then 1 else sid + 1

/-- A slot as `AllocateStream` writes it (R183). -/
def freshSlot (sid : U32) (tf : U16) (now : U32) : StreamSlot :=
  { streamId := sid, totalFragments := tf, lastActivityTick := now, completed := false }

/-- The codes of `SendOutcome` (R81); on no interface. -/
def sendOutcomeCode : SendOutcome → Nat
  | .success => 0
  | .bufferFull => 1

/-- The codes of `DecodeStatus` (R81). -/
def decodeStatusCode : DecodeResult → Nat
  | .ok _ _ => 0
  | .frameInvalid => 1
  | .checksumMismatch => 2

/-- The codes of `CompletionResult` (R81). -/
def completionResultCode : CompletionResult → Nat
  | .success => 0
  | .retryExceeded => 1
  | .rejected => 2
  | .error => 3
  | .timeout => 4

end Sys2Proof.Machine
end

