-- ==== Sys2Proof/Machine/Flags.lean ====
section
/-! DEFINITION. The one-bit facts the operations test. The block has no condition codes (10_state.md R26); its only one-bit
state is `completed`, `retryOnNack` and the presence of the current slot. -/

namespace Sys2Proof.Machine

/-- An active stream (R16): "a stream table slot whose `completed` flag is 0". -/
def isActive (x : StreamSlot) : Bool := !x.completed

/-- The age of a slot (R183, R190): `(tick - lastActivityTick) mod 2^32`. -/
def slotAge (now : U32) (x : StreamSlot) : Nat := (now - x.lastActivityTick).toNat

/-- The test of the sweep (R190): active, and older than the threshold, strictly. -/
def isExpired (c : Config) (now : U32) (x : StreamSlot) : Bool :=
  isActive x && decide (c.streamTimeoutTicks < slotAge now x)

/-- The slot an active stream of this id occupies (R182). -/
def holdsStream (sid : U32) (x : StreamSlot) : Bool :=
  isActive x && x.streamId == sid

/-- `Eligible(e)` (R202). -/
def isEligible (e : PendingPacket) : Bool :=
  e.header.type == .singleData || e.header.type == .fragmentData

/-- Whether an inbound `Ack` or `Nack` of this number is for this entry (R201). -/
def answers (pn : U16) (e : PendingPacket) : Bool :=
  e.header.packetNumber == pn && isEligible e

/-- A `Nack` of this entry still finds a retry (R203): `retryOnNack = 1` and `retryCount < maxRetries`. -/
def hasBudget (e : PendingPacket) : Bool :=
  e.retryOnNack && decide (e.retryCount < e.maxRetries)

/-- The entry as R203 re-enqueues it. -/
def retried (now : U32) (e : PendingPacket) : PendingPacket :=
  { e with retryCount := e.retryCount + 1, enqueueTick := now }

/-- Whether the index of this fragment is the stream's last (R186): `fragmentIndex == totalFragments - 1`. -/
def isLastFragment (tf fi : U16) : Bool := fi == tf - 1

/-- The type byte of a candidate names a data-type frame (R127). -/
def isDataCode (c : Config) (b : Byte) : Bool :=
  b == typeCode c .singleData || b == typeCode c .fragmentData

end Sys2Proof.Machine
end

