-- ==== Sys2Proof/Machine/Ops.lean ====
section
/-! DEFINITION. The named operations over the ring, the queue, the stream table and the collaborators, and what the machine
does when it meets a condition (60_exceptions.md). -/

namespace Sys2Proof.Machine

/-! The ring (20_memory.md R52). -/

/-- `RxAppend(b)`; the byte is discarded when the ring is full (E10). -/
def rxAppend (b : Byte) (s : State) : State :=
  if s.rx.length < s.cfg.rxBufferSize then { s with rx := s.rx ++ [b] } else s

/-- `RxConsume(n)`. -/
def rxConsume (n : Nat) (s : State) : State :=
  { s with rx := s.rx.drop n }

/-! The queue (20_memory.md R53). -/

/-- Whether `TxEnqueue` finds room. -/
def txHasRoom (s : State) : Bool := decide (s.txq.length < s.cfg.maxQueuedPackets)

/-- `TxEnqueue(e)`: the entry at the tail, or nothing when the queue is full. -/
def txEnqueue (e : PendingPacket) (s : State) : State :=
  if txHasRoom s then { s with txq := s.txq ++ [e] } else s

/-! The collaborators (20_memory.md R58 to R60). -/

/-- The answer the next call of `TX` gets: the next one listed, or a free value (log 6). -/
def txAnswer (s : State) : Bool :=
  match s.io.txAnswers with
  | a :: _ => a
  | [] => Config.freeTxAnswer s.io.answersAsked

/-- The answer the next call of `DELIVER` gets: the next one listed, or a free value (log 6). -/
def deliverAnswer (s : State) : Bool :=
  match s.io.deliverAnswers with
  | a :: _ => a
  | [] => Config.freeDeliverAnswer s.io.answersAsked

/-- The call `TX(frame)`; its answer is `txAnswer` of the state before the call. -/
def callTx (frame : List Byte) (s : State) : State :=
  { s with io := { s.io with
      txAnswers := s.io.txAnswers.tail, answersAsked := s.io.answersAsked + 1, events := s.io.events ++ [.tx frame] } }

/-- The call `DELIVER(streamId, fragmentIndex, totalFragments, payload)`; its answer is `deliverAnswer` of the state
before the call. -/
def callDeliver (sid : U32) (fi tf : U16) (p : List Byte) (s : State) : State :=
  { s with io := { s.io with
      deliverAnswers := s.io.deliverAnswers.tail, answersAsked := s.io.answersAsked + 1,
      events := s.io.events ++ [.deliver sid fi tf p] } }

/-- The call `COMPLETE(streamId, result)`. -/
def callComplete (sid : U32) (r : CompletionResult) (s : State) : State :=
  { s with io := { s.io with events := s.io.events ++ [.complete sid r] } }

/-- What the command returns to the host (R80): none for a command that returns nothing. -/
def returnToHost (r : Option SendResult) (s : State) : State :=
  { s with io := { s.io with returned := r } }

/-! Replies (42_outbound_queue.md R166, R167). -/

/-- `Reply(t, pn)`: the reply's entry at the tail of the queue; dropped, with no other effect, when the queue is full. -/
def reply (t : ReplyType) (pn : U16) (s : State) : State :=
  txEnqueue (replyEntry t pn s.tick) s

/-! The stream table (10_state.md R32). -/

/-- Slot `k`. Outside the table it reads as a free slot; no operation goes there on a table that is not empty (log 18). -/
def slotAt (s : State) (k : Nat) : StreamSlot := s.streams.getD k StreamSlot.free

/-- Write slot `k`. -/
def setSlot (k : Nat) (x : StreamSlot) (s : State) : State :=
  { s with streams := s.streams.set k x }

/-- `streams[k].completed <- 1`. -/
def completeSlot (k : Nat) (s : State) : State :=
  setSlot k { slotAt s k with completed := true } s

/-- `streams[k].lastActivityTick <- tick` (R185). -/
def refreshSlot (k : Nat) (s : State) : State :=
  setSlot k { slotAt s k with lastActivityTick := s.tick } s

/-! The conditions (60_exceptions.md R230). -/

/-- E1 to E10 of R230, each with what its action needs. -/
inductive Condition
  /-- E1, on a candidate of `n` bytes whose type byte says data-type frame (R127). -/
  | checksumMismatchData (n : Nat) (pn : U16)
  /-- E1, on any other candidate (R128). -/
  | checksumMismatchOther
  /-- E2 (R125, R128). -/
  | frameInvalid
  /-- E3, with the stream id and the count the result carries (R153, R154, R156). -/
  | bufferFull (sid : U32) (count : U16)
  /-- E4 (R184). -/
  | fragmentMismatch (pn : U16)
  /-- E5, for an entry of this stream id (R205); the matcher has left the entry out of the queue. -/
  | retriesExceeded (sid : U32)
  /-- E6, on slot `k` (R183). -/
  | streamEvicted (k : Nat)
  /-- E7, on slot `k` (R190). -/
  | streamTimeout (k : Nat)
  /-- E8 (R181). -/
  | fragmentIndexOutOfRange (pn : U16)
  /-- E9 (R167). -/
  | replyDropped
  /-- E10 (R52). -/
  | rxOverflow
deriving DecidableEq, Repr

/-- Meeting a condition: R230's "do what the 'action' column says and carry on". There is no trap entry: "no state is
saved, no mode changes, no mask is set, control goes nowhere" (R248), and so no return from one (R249). -/
def raise : Condition → State → State
  | .checksumMismatchData n pn, s => reply .nack pn (rxConsume n s)
  | .checksumMismatchOther, s => rxConsume 1 s
  | .frameInvalid, s => rxConsume 1 s
  | .bufferFull sid count, s =>
    returnToHost (some { outcome := .bufferFull, streamId := sid, fragmentCount := count }) s
  | .fragmentMismatch pn, s => reply .nack pn s
  | .retriesExceeded sid, s => callComplete sid .retryExceeded s
  | .streamEvicted k, s => callComplete (slotAt s k).streamId .error (completeSlot k s)
  | .streamTimeout k, s => callComplete (slotAt s k).streamId .timeout (completeSlot k s)
  | .fragmentIndexOutOfRange pn, s => reply .nack pn s
  | .replyDropped, s => s
  | .rxOverflow, s => s

/-! Construction (70_reset_and_hazards.md R271, R273). -/

/-- Building an instance: "A configuration that violates them is not an instance of this hardware and a model refuses to
build it" (R273). -/
def construct (c : Config) : Host.Outcome State Fault Refusal :=
  if c.Valid then .next (State.resetWith c) else .refused .invalidConfiguration

end Sys2Proof.Machine
end

