-- ==== Sys2Proof/Machine/Matcher.lean ====
section
/-! DEFINITION. The acknowledgment matcher (44_ack_matcher.md). -/

namespace Sys2Proof.Machine

/-- The loop of R201 over the queue, head to tail: `keep` holds the entries passed over, `again` those re-enqueued; at the
end the queue is `keep ++ again`. -/
def matchEntries (isNack : Bool) (pn : U16) : List PendingPacket → List PendingPacket → List PendingPacket → State → State
  | [], keep, again, s => { s with txq := keep ++ again }
  | e :: es, keep, again, s =>
    if answers pn e then
      if isNack && hasBudget e then matchEntries isNack pn es keep (again ++ [retried s.tick e]) s
      else if isNack then matchEntries isNack pn es keep again (raise (.retriesExceeded e.header.streamId) s)
      else matchEntries isNack pn es keep again (callComplete e.header.streamId .success s)
    else matchEntries isNack pn es (keep ++ [e]) again s

/-- `OnAckOrNack(h)` (R201), of the number and the type alone (R200). The queue is `txq` and nothing else: the current
slot is not inspected. -/
def onAckOrNack (isNack : Bool) (pn : U16) (s : State) : State :=
  matchEntries isNack pn s.txq [] [] s

/-- The reception of an `Ack`. -/
def receiveAck (pn : U16) (s : State) : State := onAckOrNack false pn s

/-- The reception of a `Nack`. -/
def receiveNack (pn : U16) (s : State) : State := onAckOrNack true pn s

/-- `Ack`. -/
def execAck (pn : U16) (s : State) : Host.Outcome State Fault Refusal :=
  .next (receiveAck pn s)

/-- `Nack`. -/
def execNack (pn : U16) (s : State) : Host.Outcome State Fault Refusal :=
  .next (receiveNack pn s)

end Sys2Proof.Machine
end

