-- ==== Sys2Proof/Machine/Single.lean ====
section
/-! DEFINITION. The reception of single packets (41_inbound_assembler.md R133, R134). -/

namespace Sys2Proof.Machine

/-- R133: `DELIVER` with the header's fields as received, then the reply its answer asks for. -/
def receiveSingleData (pn : U16) (sid : U32) (tf fi : U16) (p : List Byte) (s : State) : State :=
  reply (replyTo (deliverAnswer s)) pn (callDeliver sid fi tf p s)

/-- R134: `DELIVER`, its answer ignored, no reply. -/
def receiveSingleNoAck (sid : U32) (tf fi : U16) (p : List Byte) (s : State) : State :=
  callDeliver sid fi tf p s

/-- `SingleData`. -/
def execSingleData (pn : U16) (sid : U32) (tf fi : U16) (p : List Byte) (s : State) : Host.Outcome State Fault Refusal :=
  .next (receiveSingleData pn sid tf fi p s)

/-- `SingleNoAck`. -/
def execSingleNoAck (sid : U32) (tf fi : U16) (p : List Byte) (s : State) : Host.Outcome State Fault Refusal :=
  .next (receiveSingleNoAck sid tf fi p s)

end Sys2Proof.Machine
end

