-- ==== Sys2Proof/Machine/Streams.lean ====
section
/-! DEFINITION. The stream reassembly table (43_stream_table.md). -/

namespace Sys2Proof.Machine

/-- The slot an active stream of this id holds: "lowest i with streams[i].completed = 0 and streams[i].streamId" equal
(R182). -/
def lookupStream (sid : U32) (s : State) : Option Nat :=
  s.streams.findIdx? (holdsStream sid)

/-- The greatest age in the table (R183). -/
def greatestAge (now : U32) (xs : List StreamSlot) : Nat :=
  xs.foldr (fun x m => max (slotAge now x) m) 0

/-- The victim of an eviction (R183): the slot of greatest modular age, "lowest i among equals". -/
def victimSlot (now : U32) (xs : List StreamSlot) : Nat :=
  xs.findIdx (fun x => slotAge now x == greatestAge now xs)

/-- `AllocateStream(sid, tf)`, the slot it answers (R183): the lowest free one, or the victim. -/
def allocatedSlot (s : State) : Nat :=
  match s.streams.findIdx? (fun x => x.completed) with
  | some k => k
  | none => victimSlot s.tick s.streams

/-- `AllocateStream(sid, tf)`, what it does (R183): the lowest free slot is written; with no free slot the victim is
reported (E6), "before reuse", and written. -/
def allocateStream (sid : U32) (tf : U16) (s : State) : State :=
  match s.streams.findIdx? (fun x => x.completed) with
  | some k => setSlot k (freshSlot sid tf s.tick) s
  | none =>
    let k := victimSlot s.tick s.streams
    setSlot k (freshSlot sid tf s.tick) (raise (.streamEvicted k) s)

/-- The slot `OnFragment` works on (R182, R183). -/
def streamSlotFor (sid : U32) (s : State) : Nat :=
  (lookupStream sid s).getD (allocatedSlot s)

/-- The state `OnFragment` works in: unchanged after a successful lookup, else after the allocation (R182, R183). -/
def openStream (sid : U32) (tf : U16) (s : State) : State :=
  match lookupStream sid s with
  | some _ => s
  | none => allocateStream sid tf s

/-- The delivery of a fragment to slot `k` and what its answer brings about (R185, R186, R187). -/
def deliverFragment (k : Nat) (pn : U16) (sid : U32) (tf fi : U16) (p : List Byte) (s : State) : State :=
  let s1 := refreshSlot k s
  let s2 := callDeliver sid fi tf p s1
  if deliverAnswer s1 then
    let s3 := reply .ack pn s2
    if isLastFragment tf fi then callComplete sid .success (completeSlot k s3) else s3
  else
    callComplete sid .rejected (completeSlot k (reply .nack pn s2))

/-- `OnFragment(h, p)` (R180): index check (R181), lookup or allocation (R182, R183), total check (R184), delivery. -/
def receiveFragment (pn : U16) (sid : U32) (tf fi : U16) (p : List Byte) (s : State) : State :=
  if fi < tf then
    let k := streamSlotFor sid s
    let s1 := openStream sid tf s
    if (slotAt s1 k).totalFragments = tf then deliverFragment k pn sid tf fi p s1
    else raise (.fragmentMismatch pn) s1
  else raise (.fragmentIndexOutOfRange pn) s

/-- One slot of the sweep (R190). -/
def sweepSlot (s : State) (k : Nat) : State :=
  if isExpired s.cfg s.tick (slotAt s k) then raise (.streamTimeout k) s else s

/-- `SweepTimeouts()` (R190): every slot, in ascending order. -/
def sweepTimeouts (s : State) : State :=
  (List.range s.streams.length).foldl sweepSlot s

/-- `FragmentData`. -/
def execFragmentData (pn : U16) (sid : U32) (tf fi : U16) (p : List Byte) (s : State) :
    Host.Outcome State Fault Refusal :=
  .next (receiveFragment pn sid tf fi p s)

end Sys2Proof.Machine
end

