-- ==== Sys2Proof/Machine/Assembler.lean ====
section
/-! DEFINITION. The inbound byte assembler (41_inbound_assembler.md): `Scan`, `Dispatch`, `FEED`, `DATA_RECEIVED`. -/

namespace Sys2Proof.Machine

/-- What the head of the ring holds, in the order of R246: too few bytes to say or to decode, a declared size no frame may
have, or a whole candidate of `n` bytes and what `Decode` says of it. -/
inductive Candidate
  /-- The scan stops (R124). -/
  | wait
  /-- `payloadSize > MaxPayload` (R125). -/
  | oversize
  /-- `Decode` answers `Ok` (R126). -/
  | good (n : Nat) (h : Header) (p : List Byte)
  /-- A bad checksum on a data-type frame that claims this packet number (R127). -/
  | badData (n : Nat) (pn : U16)
  /-- A bad checksum on anything else (R128). -/
  | badOther
  /-- `FrameInvalid` from `Decode` (R128). -/
  | invalid
deriving DecidableEq, Repr

/-- R123 to R128: reading, without consuming, the head of the ring. -/
def candidate (c : Config) (rx : List Byte) : Candidate :=
  if rx.length < headerSize then .wait
  else if c.maxPayload < (le16 rx 3).toNat then .oversize
  else if rx.length < minFrameSize + (le16 rx 3).toNat then .wait
  else
    let n := minFrameSize + (le16 rx 3).toNat
    match decodeFrame c (rx.take n) with
    | .ok h p => .good n h p
    | .checksumMismatch => if isDataCode c (rx.getD 2 0) then .badData n (le16 rx 0) else .badOther
    | .frameInvalid => .invalid

/-- `Dispatch(h, p)` (R132). -/
def dispatchFrame (h : Header) (p : List Byte) (s : State) : State :=
  match h.type with
  | .singleData => receiveSingleData h.packetNumber h.streamId h.totalFragments h.fragmentIndex p s
  | .singleNoAck => receiveSingleNoAck h.streamId h.totalFragments h.fragmentIndex p s
  | .fragmentData => receiveFragment h.packetNumber h.streamId h.totalFragments h.fragmentIndex p s
  | .ack => receiveAck h.packetNumber s
  | .nack => receiveNack h.packetNumber s

/-- One step of `Scan` on what the ring's head holds; none where the scan stops (R123). -/
def scanStep (s : State) : Option State :=
  match candidate s.cfg s.rx with
  | .wait => none
  | .oversize => some (raise .frameInvalid s)
  | .good n h p => some (dispatchFrame h p (rxConsume n s))
  | .badData n pn => some (raise (.checksumMismatchData n pn) s)
  | .badOther => some (raise .checksumMismatchOther s)
  | .invalid => some (raise .frameInvalid s)

/-- The loop of R123, with a bound on its steps. -/
def scanLoop : Nat → State → State
  | 0, s => s
  | n + 1, s =>
    match scanStep s with
    | none => s
    | some s1 => scanLoop n s1

/-- `Scan()` (R123): every step consumes a byte, so it "terminates after at most `len(rx)` steps". -/
def scan (s : State) : State := scanLoop s.rx.length s

/-- `FEED(b)` (R122) but for the return to the host. -/
def feedByte (b : Byte) (s : State) : State := scan (rxAppend b s)

/-- `FEED` of each byte in order (R121). -/
def feedBytes (bs : List Byte) (s : State) : State :=
  bs.foldl (fun s b => feedByte b s) s

/-- `FEED`. It returns nothing (R122). -/
def execFeed (b : Byte) (s : State) : Host.Outcome State Fault Refusal :=
  .next (returnToHost none (feedByte b s))

/-- `DATA_RECEIVED`. It returns nothing (R80). -/
def execDataReceived (bs : List Byte) (s : State) : Host.Outcome State Fault Refusal :=
  .next (returnToHost none (feedBytes bs s))

end Sys2Proof.Machine
end

