-- ==== Sys2Proof/Machine/Outbound.lean ====
section
/-! DEFINITION. The outbound queue (42_outbound_queue.md): `SEND`, `SEND_NOACK`, `PROCESS`. -/

namespace Sys2Proof.Machine

/-- `EnqueueData` (R151) when there is room; a refused enqueue changes nothing. Whether it succeeds is `txHasRoom`. -/
def enqueueData (t : FrameType) (p : List Byte) (sid : U32) (tf fi : U16) (mr : U8) (ron : Bool) (s : State) : State :=
  if txHasRoom s then
    { s with txq := s.txq ++ [dataEntry t s.nextPacketNumber p sid tf fi mr ron s.tick],
             nextPacketNumber := s.nextPacketNumber + 1 }
  else s

/-- A result with outcome `Success`. -/
def returnSuccess (sid : U32) (count : U16) (s : State) : State :=
  returnToHost (some { outcome := .success, streamId := sid, fragmentCount := count }) s

/-- One packet of a non-fragmented send (R153, R156): enqueued, or `BufferFull`. -/
def sendOne (t : FrameType) (p : List Byte) (mr : U8) (ron : Bool) (s : State) : State :=
  if txHasRoom s then returnSuccess 0 0 (enqueueData t p 0 0 0 mr ron s)
  else raise (.bufferFull 0 0) s

/-- The loop of R154 over the fragment indices still to enqueue: it ends with `Success` after the last, and with
`BufferFull` at the first that finds no room; what was enqueued before stays. -/
def sendFragments (p : List Byte) (sid : U32) (n : U16) (mr : U8) (ron : Bool) : List Nat → State → State
  | [], s => returnSuccess sid n s
  | i :: is, s =>
    if txHasRoom s then
      sendFragments p sid n mr ron is
        (enqueueData .fragmentData (fragment s.cfg p i) sid n (BitVec.ofNat 16 i) mr ron s)
    else raise (.bufferFull sid n) s

/-- `nextStreamId` taken (R154, R23). -/
def takeStreamId (s : State) : State :=
  { s with nextStreamId := nextStreamIdAfter s.nextStreamId }

/-- `SendFragmented` (R154). -/
def sendFragmented (p : List Byte) (mr : U8) (ron : Bool) (s : State) : State :=
  let n := fragmentCount s.cfg p.length
  if 65535 < n then raise (.bufferFull 0 0) s
  else sendFragments p s.nextStreamId (BitVec.ofNat 16 n) mr ron (List.range n) (takeStreamId s)

/-- `SEND(payload, maxRetries, retryOnNack)` (R152). -/
def sendData (p : List Byte) (mr : U8) (ron : Bool) (s : State) : State :=
  if p.length ≤ s.cfg.maxPayload then sendOne .singleData p mr ron s else sendFragmented p mr ron s

/-- `SEND_NOACK(payload)` (R156). -/
def sendUnacknowledged (p : List Byte) (s : State) : State :=
  if p.length ≤ s.cfg.maxPayload then sendOne .singleNoAck p 0 false s else raise (.bufferFull 0 0) s

/-- The first action of `PROCESS` (R160): `tick <- (tick + 1) mod 2^32`. -/
def advanceTick (s : State) : State := { s with tick := s.tick + 1 }

/-- Step (a) of `PROCESS` (R161): the head of the queue into the current slot, if that is empty. -/
def fillCurrent (s : State) : State :=
  match s.cur, s.txq with
  | none, e :: rest => { s with cur := some e, txq := rest }
  | _, _ => s

/-- Step (b) of `PROCESS` (R162) on a serialised frame: the call, and the slot emptied on success. -/
def handOff (frame : List Byte) (s : State) : State :=
  if txAnswer s then { callTx frame s with cur := none } else callTx frame s

/-- Step (c) of `PROCESS` and its end: the sweep (R165), and nothing returned (R160). -/
def finishProcess (s : State) : State := returnToHost none (sweepTimeouts s)

/-- `SEND`. -/
def execSend (p : List Byte) (mr : U8) (ron : Bool) (s : State) : Host.Outcome State Fault Refusal :=
  .next (sendData p mr ron s)

/-- `SEND_NOACK`. -/
def execSendNoAck (p : List Byte) (s : State) : Host.Outcome State Fault Refusal :=
  .next (sendUnacknowledged p s)

/-- `PROCESS` (R160): the tick, step (a), step (b), step (c). A packet outside the precondition of `Encode` is refused as
R101 asks; no engine path puts one in the current slot. -/
def execProcess (s : State) : Host.Outcome State Fault Refusal :=
  let s1 := fillCurrent (advanceTick s)
  match s1.cur with
  | none => .next (finishProcess s1)
  | some e =>
    match encodeFrame s1.cfg e.header e.payload with
    | some frame => .next (finishProcess (handOff frame s1))
    | none => .refused .encodeOutsidePrecondition

end Sys2Proof.Machine
end

