-- ==== Sys2Proof/Machine/Dispatch.lean ====
section
/-! DEFINITION. The meaning of each instruction, one arm per row of opcode_table.json. -/

namespace Sys2Proof.Machine

def exec (i : Instr) (s : State) : Host.Outcome State Fault Refusal :=
  match i with
  -- The reception of a frame (R132).
  | .singleData pn sid tf fi p => Sys2Proof.Machine.execSingleData pn sid tf fi p s
  | .fragmentData pn sid tf fi p => Sys2Proof.Machine.execFragmentData pn sid tf fi p s
  -- R200: of an Ack or a Nack everything but the number and the type is ignored.
  | .ack pn _ _ _ _ => Sys2Proof.Machine.execAck pn s
  | .nack pn _ _ _ _ => Sys2Proof.Machine.execNack pn s
  -- R134: no reply, so the packet number is not used.
  | .singleNoAck _ sid tf fi p => Sys2Proof.Machine.execSingleNoAck sid tf fi p s
  -- The host commands (R80).
  | .send p mr ron => Sys2Proof.Machine.execSend p mr ron s
  | .sendNoAck p => Sys2Proof.Machine.execSendNoAck p s
  | .feed b => Sys2Proof.Machine.execFeed b s
  | .dataReceived bs => Sys2Proof.Machine.execDataReceived bs s
  | .process => Sys2Proof.Machine.execProcess s

end Sys2Proof.Machine
end

