-- ==== Sys2Proof/Machine/Fetch.lean ====
section
/-! DEFINITION. Where a step finds its next instruction: the head of the ring, which R3 and R39 call the nearest thing to a
program counter, and the command port. -/

namespace Sys2Proof.Machine

/-- What a step finds. -/
inductive Fetched
  /-- Nothing to run: "The block never initiates anything" (R220). -/
  | idle
  /-- An instruction, and the state it runs in, its words taken. -/
  | run (i : Instr) (s : State)
  /-- A whole candidate at the ring's head that is no instruction: the state after the recovery of R125, R127, R128. -/
  | recovered (s : State)
  /-- A word of the command port that is none of the five commands. -/
  | illegalTag (tag : BitVec 4)

/-- The next command of the port. -/
def fetchCommand (s : State) : Fetched :=
  match s.io.commands with
  | [] => .idle
  | w :: rest =>
    match decodeCommand w with
    | .ok i => .run i { s with io := { s.io with commands := rest } }
    | .error _ => .illegalTag w.tag

/-- The next instruction. R124: "whenever the buffer holds" a whole candidate it is consumed, decoded and dispatched; no
command leaves one in the ring (R131), so after a command the next one is taken from the port (log 8). -/
def fetch (s : State) : Fetched :=
  match candidate s.cfg s.rx with
  | .good n h p => .run (instrOfFrame h p) (rxConsume n s)
  | .wait => fetchCommand s
  | .oversize | .badData _ _ | .badOther | .invalid => .recovered ((scanStep s).getD s)

/-- A frame at the head of the ring, alone. -/
def loadFrame (b : List Byte) (s : State) : State := { s with rx := b }

/-- A command at the head of the port; a whole candidate in the ring would be run before it and is taken away. -/
def loadCommand (w : CommandWord) (s : State) : State :=
  { s with
    rx := if candidate s.cfg s.rx = .wait then s.rx else [],
    io := { s.io with commands := w :: s.io.commands } }

/-- An encoded instruction stored where `fetch` takes the next one from. -/
def loadEncoded : Encoded → State → State
  | .frame b, s => loadFrame b s
  | .command w, s => loadCommand w s

end Sys2Proof.Machine
end

