-- ==== Sys2Proof/Machine/Step.lean ====
section
/-! DEFINITION. One step: one instruction, run to completion (00_scope.md R15). -/

namespace Sys2Proof.Machine

/-- One step of the machine. With nothing to run the state stays as it is (R220). -/
def step (s : State) : Host.Outcome State Fault Refusal :=
  match fetch s with
  | .idle => .next s
  | .run i s1 => exec i s1
  | .recovered s1 => .next s1
  | .illegalTag tag => .refused (.illegalCommandTag tag)

/-- `s` with the instruction of this word of opcode_table.json stored where `step` fetches its next one (log 9); a number
that fits neither format of the table stores nothing. -/
def State.withFetchWord (s : State) (nbits w : Nat) : State :=
  match tableEncoded s.cfg nbits w with
  | some e => loadEncoded e s
  | none => s

end Sys2Proof.Machine
end

