-- ==== Sys2Proof/Safety.lean ====
section
/-! DEFINITION. What a safe state and a safe run are, in the words the statements use. -/

namespace Sys2Proof.Machine

/-- A run goes on: the outcome is a next state. -/
def Continues (o : Host.Outcome State Fault Refusal) : Prop := ∃ t, o = .next t

/-- What R29 says of every entry: its size field is its payload's length and at most `MaxPayload` (so `Encode` is defined
on it, R101), `retryCount ≤ maxRetries`, and both retry fields are zero in a `SingleNoAck` and in a reply. -/
abbrev PacketOk (c : Config) (e : PendingPacket) : Prop :=
  encodable c e.header e.payload = true ∧ e.retryCount ≤ e.maxRetries ∧
    (isEligible e = false → e.maxRetries = 0 ∧ e.retryOnNack = false)

/-- What R181 and R190 leave of every active slot: a positive total, and an age within the threshold. -/
abbrev SlotOk (c : Config) (now : U32) (x : StreamSlot) : Prop :=
  isActive x = true → 0 < x.totalFragments ∧ slotAge now x ≤ c.streamTimeoutTicks

/-- R131: the head of the ring is no whole candidate and no oversize one. -/
abbrev State.RingOk (s : State) : Prop := candidate s.cfg s.rx = .wait

/-- R28 and R29 for the queue. -/
abbrev State.QueueOk (s : State) : Prop :=
  s.txq.length ≤ s.cfg.maxQueuedPackets ∧ ∀ e ∈ s.txq, PacketOk s.cfg e

/-- R29 for the current slot. -/
abbrev State.CurrentOk (s : State) : Prop := ∀ e ∈ s.cur, PacketOk s.cfg e

/-- R32 and R33 for the table, and R182's "never creates that situation": no two active slots hold one id. -/
abbrev State.TableOk (s : State) : Prop :=
  s.streams.length = s.cfg.maxStreams ∧ (∀ x ∈ s.streams, SlotOk s.cfg s.tick x) ∧
    ((s.streams.filter isActive).map fun x => x.streamId).Nodup

/-- The invariants of 10_state.md: the configuration is one of the hardware's (R273), the ring, the queue, the current slot
and the table are as above, and 0 is no stream id to be allocated (R23). -/
abbrev State.Inv (s : State) : Prop :=
  s.cfg.Valid ∧ s.RingOk ∧ s.QueueOk ∧ s.CurrentOk ∧ s.TableOk ∧ s.nextStreamId ≠ 0

/-- The commands of R80, as instructions. -/
def isCommand : Instr → Bool
  | .send _ _ _ => true
  | .sendNoAck _ => true
  | .feed _ => true
  | .dataReceived _ => true
  | .process => true
  | .singleData _ _ _ _ _ => false
  | .fragmentData _ _ _ _ _ => false
  | .ack _ _ _ _ _ => false
  | .nack _ _ _ _ _ => false
  | .singleNoAck _ _ _ _ _ => false

/-- A call of the transport (R58). -/
def isTx : Event → Bool
  | .tx _ => true
  | .deliver _ _ _ _ => false
  | .complete _ _ => false

/-- `k` commands `PROCESS` in a row (R290: time is the host's call rate). -/
def processTimes : Nat → State → Host.Outcome State Fault Refusal
  | 0, s => .next s
  | k + 1, s =>
    match exec .process s with
    | .next t => processTimes k t
    | .fault r => .fault r
    | .refused r => .refused r

/-- A byte sequence with bit `k` inverted, bit 0 being the least significant of byte 0 (R110). -/
def flipBit (b : List Byte) (k : Nat) : List Byte :=
  b.modify (k / 8) (· ^^^ (1#8 <<< (k % 8)))

/-! What the operations leave, written out as values: the statements compare the model's loops with these. -/

/-- The queue after a reply (R166, R167): the reply at the tail, or dropped. -/
def queueAfterReply (t : ReplyType) (pn : U16) (s : State) : List PendingPacket :=
  if s.txq.length < s.cfg.maxQueuedPackets then s.txq ++ [replyEntry t pn s.tick] else s.txq

/-- R190, as the spec writes it: `completed = 0` and `(tick - lastActivityTick) mod 2^32 > StreamTimeoutTicks`. -/
def pastThreshold (c : Config) (now : U32) (x : StreamSlot) : Bool :=
  decide (x.completed = false ∧ c.streamTimeoutTicks < (now - x.lastActivityTick).toNat)

/-- The table after a sweep at tick `now` (R190): every slot past the threshold free, the others as they were. -/
def sweptTable (c : Config) (now : U32) (xs : List StreamSlot) : List StreamSlot :=
  xs.map fun x => if pastThreshold c now x then { x with completed := true } else x

/-- The reports of a sweep at tick `now` (R190), in ascending slot order. -/
def timeoutCalls (c : Config) (now : U32) (xs : List StreamSlot) : List Event :=
  (xs.filter (pastThreshold c now)).map fun x => .complete x.streamId .timeout

/-- The calls a delivered fragment makes (R185, R186, R187) when `DELIVER` answers `a`. -/
def fragmentCalls (sid : U32) (tf fi : U16) (p : List Byte) (a : Bool) : List Event :=
  .deliver sid fi tf p ::
    (if a then (if fi = tf - 1 then [.complete sid .success] else []) else [.complete sid .rejected])

/-- The state after a fragment was delivered to slot `k` (R185, R186, R187), with the calls made before it: the slot
refreshed, and free again after the last fragment or a rejection; the reply queued; the calls made. -/
def afterFragment (k : Nat) (before : List Event) (pn : U16) (sid : U32) (tf fi : U16) (p : List Byte) (s : State) :
    State :=
  let a := deliverAnswer s
  { s with
    txq := queueAfterReply (replyTo a) pn s
    streams := s.streams.set k
      { streamId := sid, totalFragments := tf, lastActivityTick := s.tick, completed := !a || fi == tf - 1 }
    io := { s.io with
      deliverAnswers := s.io.deliverAnswers.tail
      answersAsked := s.io.answersAsked + 1
      events := s.io.events ++ before ++ fragmentCalls sid tf fi p a } }

/-- The entry of fragment `i` of a fragmented `SEND` in state `s` (R154). -/
def fragmentEntry (p : List Byte) (mr : U8) (ron : Bool) (s : State) (i : Nat) : PendingPacket :=
  dataEntry .fragmentData (s.nextPacketNumber + BitVec.ofNat 16 i) (fragment s.cfg p i) s.nextStreamId
    (BitVec.ofNat 16 (fragmentCount s.cfg p.length)) (BitVec.ofNat 16 i) mr ron s.tick

/-- A state with every `enqueueTick` set to 0 (R37). -/
def eraseEnqueueTicks (s : State) : State :=
  { s with
    txq := s.txq.map fun e => { e with enqueueTick := 0 }
    cur := s.cur.map fun e => { e with enqueueTick := 0 } }

/-- A state with every free slot's other fields set to 0 (R33: "read by no rule until the slot is allocated again"). -/
def eraseFreeSlots (s : State) : State :=
  { s with streams := s.streams.map fun x => if x.completed then StreamSlot.free else x }

end Sys2Proof.Machine
end

