-- ==== Sys2Proof/Certificates/Slice0/Obligations.lean ====
section
/-! DEFINITION. The statements for the provers. Each cites the rule of the spec it formalises.

Where a statement gives the next state whole, that is also its frame: every field it does not write is as before. What it
says of `io` is the model's own record of the host's side, by logs 5 (commands), 6 (answers) and 7 (calls and returned
values): R14 makes the calls outputs and the answers inputs of a step. An answer no list holds is a free value (log 6):
every statement holds whatever it is. -/

open Sys2Proof Sys2Proof.Machine

/-! The codec (40_framing_codec.md). -/

/-- The values of `Crc16` that R100 and vectors K1 to K7 give; the parameters of `Crc16` are PRESUMED, by R100 itself
(log 2). -/
def Obligations.Crc16KnownValues : Prop :=
  crc16 [] = 0xFFFF#16 ∧ crc16 [0x00] = 0xE1F0#16 ∧ crc16 [0x41] = 0xB915#16 ∧ crc16 [0xFF] = 0xFF00#16 ∧
  crc16 [0x00, 0x00] = 0x1D0F#16 ∧
  crc16 [0x31, 0x32, 0x33, 0x34, 0x35, 0x36, 0x37, 0x38, 0x39] = 0x29B1#16 ∧
  crc16 [0, 0, 2, 0, 0, 0, 0, 0, 0, 0, 0, 0, 0] = 0x88BF#16

/-- R109: within the precondition of `Encode`, `Decode` gives back the header and the payload. R109 marks the empty payload
as derived. -/
def Obligations.FrameRoundTrip : Prop :=
  ∀ (c : Config) (h : Header) (p : List Byte), c.Valid → h.payloadSize.toNat = p.length → p.length ≤ c.maxPayload →
    ∃ b, encodeFrame c h p = some b ∧ b.length = 15 + p.length ∧ decodeFrame c b = .ok h p

/-- The decoder reads back every well-formed instruction the encoder writes (R70, R80, R102, R107). That a command's
arguments stand in lanes beside its tag is the model's choice (log 4). -/
def Obligations.DecodeReadsBackEncode : Prop :=
  ∀ (c : Config) (i : Instr), c.Valid → i.wf c = true → decode c (encode c i) = .ok i

/-- R110: a frame with any single bit inverted, in header, payload or checksum, decodes as `ChecksumMismatch`. It rests on
the parameters of `Crc16` (log 2); R110 marks the clause on checksum bits as derived. -/
def Obligations.SingleBitFlipIsDetected : Prop :=
  ∀ (c : Config) (h : Header) (p : List Byte) (k : Nat), k < 8 * (15 + p.length) →
    decodeFrame c (flipBit (frameBytes c h p) k) = .checksumMismatch

/-- R103 to R107: the checks of `Decode`, the first that fails deciding, and what it answers when none fails. -/
def Obligations.DecodeChecksInOrder : Prop :=
  ∀ (c : Config) (b : List Byte),
    (b.length < 15 → decodeFrame c b = .frameInvalid) ∧
    (15 ≤ b.length → crc16 (b.take (b.length - 2)) ≠ le16 b (b.length - 2) → decodeFrame c b = .checksumMismatch) ∧
    (15 ≤ b.length → crc16 (b.take (b.length - 2)) = le16 b (b.length - 2) →
      ((le16 b 3).toNat ≠ b.length - 15 ∨ (∀ t, b.getD 2 0 ≠ typeCode c t) ∨ c.maxPayload < (le16 b 3).toNat) →
      decodeFrame c b = .frameInvalid) ∧
    (∀ t, c.typeCodes.Injective → 15 ≤ b.length → crc16 (b.take (b.length - 2)) = le16 b (b.length - 2) →
      (le16 b 3).toNat = b.length - 15 → (le16 b 3).toNat ≤ c.maxPayload → b.getD 2 0 = typeCode c t →
      decodeFrame c b =
        .ok { packetNumber := le16 b 0, type := t, payloadSize := le16 b 3, streamId := le32 b 5,
              totalFragments := le16 b 9, fragmentIndex := le16 b 11 } ((b.take (b.length - 2)).drop 13))

/-- With the type codes of R75's table, an encoded instruction fits the opcode table's row of its own mnemonic and no
other (R83). -/
def Obligations.EncodedInstructionFitsItsRowOnly : Prop :=
  ∀ (c : Config) (i j : Instr), c.typeCodes = {} →
    rowMatches (tableRow j) (encode c i) = decide (tableRow j = tableRow i)

/-- A few words written out from R70, R75, R80 and the vectors E2, E3, E5, E6, E7 decode to the instruction each stands
for. The checksum bytes rest on log 2, the lanes of a command's arguments on log 4. -/
def Obligations.WrittenWordsDecode : Prop :=
  decode Config.cfg64 (.frame [0x01, 0x00, 0x00, 0x00, 0x00, 0, 0, 0, 0, 0, 0, 0, 0, 0x6F, 0x6D]) =
    .ok (.singleData 1 0 0 0 []) ∧
  decode Config.cfg64 (.frame [0x02, 0x01, 0x01, 0x04, 0x00, 0xD4, 0xC3, 0xB2, 0xA1, 0x03, 0x00, 0x02, 0x00,
      0xDE, 0xAD, 0xBE, 0xEF, 0x9F, 0x06]) =
    .ok (.fragmentData 0x0102 0xA1B2C3D4 3 2 [0xDE, 0xAD, 0xBE, 0xEF]) ∧
  decode Config.cfg64 (.frame [0x34, 0x12, 0x02, 0, 0, 0, 0, 0, 0, 0, 0, 0, 0, 0x74, 0x87]) =
    .ok (.ack 0x1234 0 0 0 []) ∧
  decode Config.cfg64 (.frame [0, 0, 0x03, 0, 0, 0, 0, 0, 0, 0, 0, 0, 0, 0xF6, 0x50]) = .ok (.nack 0 0 0 0 []) ∧
  decode Config.cfg64 (.frame [0x07, 0, 0x04, 0x02, 0, 0, 0, 0, 0, 0, 0, 0, 0, 0x48, 0x69, 0xF9, 0x4C]) =
    .ok (.singleNoAck 7 0 0 0 [0x48, 0x69]) ∧
  decode Config.cfg64 (.command { tag := 0x0, bytes := [0x01, 0x02], maxRetries := 3, retryOnNack := true }) =
    .ok (.send [0x01, 0x02] 3 true) ∧
  decode Config.cfg64 (.command { tag := 0x1, bytes := [0x48, 0x69] }) = .ok (.sendNoAck [0x48, 0x69]) ∧
  decode Config.cfg64 (.command { tag := 0x2, byte := 0x7F }) = .ok (.feed 0x7F) ∧
  decode Config.cfg64 (.command { tag := 0x3, bytes := [0xAA, 0x55] }) = .ok (.dataReceived [0xAA, 0x55]) ∧
  decode Config.cfg64 (.command { tag := 0x4 }) = .ok .process

/-! The inbound assembler (41_inbound_assembler.md). -/

/-- R125 to R128: what one step of the scan does when at least a header is in the ring. -/
def Obligations.ScanStepOutcomes : Prop :=
  ∀ s : State, 13 ≤ s.rx.length →
    (s.cfg.maxPayload < (le16 s.rx 3).toNat → scanStep s = some { s with rx := s.rx.drop 1 }) ∧
    ((le16 s.rx 3).toNat ≤ s.cfg.maxPayload → 15 + (le16 s.rx 3).toNat ≤ s.rx.length →
      (∀ h p, decodeFrame s.cfg (s.rx.take (15 + (le16 s.rx 3).toNat)) = .ok h p →
        scanStep s = some (dispatchFrame h p { s with rx := s.rx.drop (15 + (le16 s.rx 3).toNat) })) ∧
      (decodeFrame s.cfg (s.rx.take (15 + (le16 s.rx 3).toNat)) = .checksumMismatch →
        (s.rx.getD 2 0 = typeCode s.cfg .singleData ∨ s.rx.getD 2 0 = typeCode s.cfg .fragmentData →
          scanStep s = some { s with rx := s.rx.drop (15 + (le16 s.rx 3).toNat),
                                     txq := queueAfterReply .nack (le16 s.rx 0) s }) ∧
        (s.rx.getD 2 0 ≠ typeCode s.cfg .singleData → s.rx.getD 2 0 ≠ typeCode s.cfg .fragmentData →
          scanStep s = some { s with rx := s.rx.drop 1 })) ∧
      (decodeFrame s.cfg (s.rx.take (15 + (le16 s.rx 3).toNat)) = .frameInvalid →
        scanStep s = some { s with rx := s.rx.drop 1 }))

/-- R124: with fewer than 13 bytes, or a bounded declared size and fewer than `15 + payloadSize` bytes, `FEED` only appends
its byte. -/
def Obligations.FeedWaitsForWholeFrame : Prop :=
  ∀ (s : State) (b : Byte), s.rx.length < s.cfg.rxBufferSize →
    (s.rx.length + 1 < 13 ∨
      ((le16 (s.rx ++ [b]) 3).toNat ≤ s.cfg.maxPayload ∧ s.rx.length + 1 < 15 + (le16 (s.rx ++ [b]) 3).toNat)) →
    exec (.feed b) s = .next { s with rx := s.rx ++ [b], io := { s.io with returned := none } }

/-- R122: `FEED` appends its byte (R52) and then scans, in every state, and returns nothing. -/
def Obligations.FeedAppendsThenScans : Prop :=
  ∀ (s : State) (b : Byte),
    exec (.feed b) s = .next (returnToHost none (scan
      (if s.rx.length < s.cfg.rxBufferSize then { s with rx := s.rx ++ [b] } else s)))

/-- R123: `Scan` repeats its step until a step stops; the model's bound on the steps is never what ends it. -/
def Obligations.ScanRepeatsUntilItStops : Prop :=
  ∀ s : State, (scanStep s = none → scan s = s) ∧ (∀ t, scanStep s = some t → t.rx.length < s.rx.length ∧ scan s = scan t)

/-- R131: after every `Scan` the ring waits for bytes. So it does after every command; hence fewer than `MaxPacketSize` bytes
are in the ring and the next byte finds room. -/
def Obligations.ScanLeavesNoWholeCandidate : Prop :=
  (∀ s : State, s.cfg.Valid →
    let t := scan s
    t.rx.length < 13 ∨
      ((le16 t.rx 3).toNat ≤ s.cfg.maxPayload ∧ t.rx.length < 15 + (le16 t.rx 3).toNat ∧
        15 + (le16 t.rx 3).toNat ≤ s.cfg.maxPacketSize)) ∧
  (∀ (i : Instr) (s t : State), isCommand i = true → s.cfg.Valid → s.RingOk → exec i s = .next t →
    t.RingOk ∧
    (t.rx.length < 13 ∨ ((le16 t.rx 3).toNat ≤ s.cfg.maxPayload ∧ t.rx.length < 15 + (le16 t.rx 3).toNat)) ∧
    t.rx.length ≤ s.cfg.maxPacketSize - 1 ∧ t.rx.length < s.cfg.rxBufferSize)

/-- A frame that arrives aligned is received whole (R126, R129): feeding the bytes of a frame to an empty ring does what the
reception of that frame does, and leaves the ring empty. -/
def Obligations.AlignedFrameIsReceivedWhole : Prop :=
  ∀ (s : State) (i : Instr) (b : List Byte), s.cfg.Valid → s.rx = [] → i.wf s.cfg = true → encode s.cfg i = .frame b →
    ∃ t, exec i s = .next t ∧ t.rx = [] ∧ exec (.dataReceived b) s = .next (returnToHost none t)

/-- A data-type frame of which one bit of payload or checksum is inverted costs all its bytes and a `Nack` to its packet
number, and nothing else (R127, R110). It rests on the parameters of `Crc16` (log 2). For a header bit the number the `Nack` names,
and the length, are read from the corrupted bytes (R285): there ScanStepOutcomes says what the step does. -/
def Obligations.CorruptDataFrameIsNacked : Prop :=
  ∀ (s : State) (h : Header) (p : List Byte) (k : Nat), s.cfg.Valid → s.rx = [] →
    h.payloadSize.toNat = p.length → p.length ≤ s.cfg.maxPayload →
    (h.type = .singleData ∨ h.type = .fragmentData) → 8 * 13 ≤ k → k < 8 * (15 + p.length) →
    exec (.dataReceived (flipBit (frameBytes s.cfg h p) k)) s =
      .next { s with txq := queueAfterReply .nack h.packetNumber s, io := { s.io with returned := none } }

/-- R121: `DATA_RECEIVED` is `FEED` of each byte in order; the empty sequence does nothing. -/
def Obligations.DataReceivedFeedsInOrder : Prop :=
  ∀ s : State,
    exec (.dataReceived []) s = .next { s with io := { s.io with returned := none } } ∧
    (∀ b bs, ∃ t u, exec (.feed b) s = .next t ∧ exec (.dataReceived bs) t = .next u ∧
      exec (.dataReceived (b :: bs)) s = .next u)

/-! Single packets (R133, R134). -/

/-- R133: `SingleData` makes one `DELIVER` call with the fields as received, and a reply by its answer. -/
def Obligations.SingleDataDeliversAndReplies : Prop :=
  ∀ (pn : U16) (sid : U32) (tf fi : U16) (p : List Byte) (s : State),
    exec (.singleData pn sid tf fi p) s =
      .next { s with
        txq := queueAfterReply (if deliverAnswer s then .ack else .nack) pn s
        io := { s.io with
          deliverAnswers := s.io.deliverAnswers.tail
          answersAsked := s.io.answersAsked + 1
          events := s.io.events ++ [.deliver sid fi tf p] } }

/-- R134: `SingleNoAck` makes one `DELIVER` call, ignores its answer and replies nothing. -/
def Obligations.SingleNoAckDeliversOnly : Prop :=
  ∀ (pn : U16) (sid : U32) (tf fi : U16) (p : List Byte) (s : State),
    exec (.singleNoAck pn sid tf fi p) s =
      .next { s with
        io := { s.io with
          deliverAnswers := s.io.deliverAnswers.tail
          answersAsked := s.io.answersAsked + 1
          events := s.io.events ++ [.deliver sid fi tf p] } }

/-! The stream table (43_stream_table.md). -/

/-- R181: a fragment whose index is not below its total is answered with `Nack`; nothing else changes. -/
def Obligations.FragmentIndexOutOfRangeIsNacked : Prop :=
  ∀ (pn : U16) (sid : U32) (tf fi : U16) (p : List Byte) (s : State), tf.toNat ≤ fi.toNat →
    exec (.fragmentData pn sid tf fi p) s = .next { s with txq := queueAfterReply .nack pn s }

/-- R184: a fragment whose total differs from its active stream's is answered with `Nack`; the stream is unchanged. -/
def Obligations.FragmentTotalMismatchIsNacked : Prop :=
  ∀ (pn : U16) (sid : U32) (tf fi : U16) (p : List Byte) (s : State) (k : Nat) (x : StreamSlot),
    fi.toNat < tf.toNat → s.streams[k]? = some x → x.completed = false → x.streamId = sid → x.totalFragments ≠ tf →
    (∀ j < k, ∀ y, s.streams[j]? = some y → y.completed = false → y.streamId ≠ sid) →
    exec (.fragmentData pn sid tf fi p) s = .next { s with txq := queueAfterReply .nack pn s }

/-- R185 to R187: a fragment of an active stream with the recorded total is delivered once, the stream refreshed, and the
answer decides the reply and the completion. -/
def Obligations.FragmentJoinsItsActiveStream : Prop :=
  ∀ (pn : U16) (sid : U32) (tf fi : U16) (p : List Byte) (s : State) (k : Nat) (x : StreamSlot),
    fi.toNat < tf.toNat → s.streams[k]? = some x → x.completed = false → x.streamId = sid → x.totalFragments = tf →
    (∀ j < k, ∀ y, s.streams[j]? = some y → y.completed = false → y.streamId ≠ sid) →
    exec (.fragmentData pn sid tf fi p) s = .next (afterFragment k [] pn sid tf fi p s)

/-- R183 with a free slot: the fragment of an unseen stream takes the lowest free slot and is delivered. -/
def Obligations.FragmentOpensLowestFreeSlot : Prop :=
  ∀ (pn : U16) (sid : U32) (tf fi : U16) (p : List Byte) (s : State) (k : Nat) (x : StreamSlot),
    fi.toNat < tf.toNat → (∀ y ∈ s.streams, y.completed = false → y.streamId ≠ sid) →
    s.streams[k]? = some x → x.completed = true → (∀ j < k, ∀ y, s.streams[j]? = some y → y.completed = false) →
    exec (.fragmentData pn sid tf fi p) s = .next (afterFragment k [] pn sid tf fi p s)

/-- R189 and R183 with no free slot: the fragment of an unseen stream evicts exactly the slot of greatest modular age, the
lowest among equals, and reports it as `Error` before the delivery. -/
def Obligations.FragmentEvictsLeastRecentlyActive : Prop :=
  ∀ (pn : U16) (sid : U32) (tf fi : U16) (p : List Byte) (s : State) (k : Nat) (x : StreamSlot),
    fi.toNat < tf.toNat → (∀ y ∈ s.streams, y.completed = false ∧ y.streamId ≠ sid) → s.streams[k]? = some x →
    (∀ y ∈ s.streams, (s.tick - y.lastActivityTick).toNat ≤ (s.tick - x.lastActivityTick).toNat) →
    (∀ j < k, ∀ y, s.streams[j]? = some y →
      (s.tick - y.lastActivityTick).toNat < (s.tick - x.lastActivityTick).toNat) →
    exec (.fragmentData pn sid tf fi p) s =
      .next (afterFragment k [.complete x.streamId .error] pn sid tf fi p s)

/-! The acknowledgment matcher (44_ack_matcher.md). -/

/-- R204: an `Ack` removes every eligible queued entry of its number and completes each with `Success` under the entry's own
stream id, head to tail; the others keep their order, and the current slot is not inspected. An entry is released where its
number is the `Ack`'s (R201) and its type is `SingleData` or `FragmentData` (R202). -/
def Obligations.AckReleasesMatchingEntries : Prop :=
  ∀ (pn : U16) (sid : U32) (tf fi : U16) (p : List Byte) (s : State),
    let released : PendingPacket → Bool := fun e =>
      decide (e.header.packetNumber = pn ∧ (e.header.type = .singleData ∨ e.header.type = .fragmentData))
    exec (.ack pn sid tf fi p) s =
      .next { s with
        txq := s.txq.filter fun e => !released e
        io := { s.io with
          events := s.io.events ++ (s.txq.filter released).map fun e => .complete e.header.streamId .success } }

/-- R203, R205, R208: a `Nack` re-enqueues at the tail every eligible entry of its number that has budget, with the count
advanced and the enqueue tick reset, and drops the other eligible entries of its number with `RetryExceeded`. Eligible is an
entry of type `SingleData` or `FragmentData` (R202). -/
def Obligations.NackRequeuesOrDropsMatchingEntries : Prop :=
  ∀ (pn : U16) (sid : U32) (tf fi : U16) (p : List Byte) (s : State),
    let matched : PendingPacket → Bool := fun e =>
      decide (e.header.packetNumber = pn ∧ (e.header.type = .singleData ∨ e.header.type = .fragmentData))
    let budget : PendingPacket → Bool := fun e => e.retryOnNack && decide (e.retryCount < e.maxRetries)
    exec (.nack pn sid tf fi p) s =
      .next { s with
        txq := (s.txq.filter fun e => !matched e) ++
          (s.txq.filter fun e => matched e && budget e).map
            fun e => { e with retryCount := e.retryCount + 1, enqueueTick := s.tick }
        io := { s.io with
          events := s.io.events ++
            (s.txq.filter fun e => matched e && !budget e).map
              fun e => .complete e.header.streamId .retryExceeded } }

/-- R207: where no eligible queued entry has the number, an `Ack` or a `Nack` changes nothing; and so a second `Ack` of one
number has no effect beyond the first. -/
def Obligations.SecondAckHasNoEffect : Prop :=
  ∀ (pn : U16) (sid : U32) (tf fi : U16) (p : List Byte) (s : State),
    ((∀ e ∈ s.txq, e.header.packetNumber = pn → e.header.type ≠ .singleData ∧ e.header.type ≠ .fragmentData) →
      exec (.ack pn sid tf fi p) s = .next s ∧ exec (.nack pn sid tf fi p) s = .next s) ∧
    (∀ t, exec (.ack pn sid tf fi p) s = .next t → exec (.ack pn sid tf fi p) t = .next t)

/-- R201: the current slot plays no part in matching: with any other content of it, an `Ack` or a `Nack` does the same to
everything else. -/
def Obligations.MatcherIgnoresCurrentSlot : Prop :=
  ∀ (pn : U16) (sid : U32) (tf fi : U16) (p : List Byte) (s : State) (e : Option PendingPacket),
    (∃ t, exec (.ack pn sid tf fi p) s = .next t ∧ exec (.ack pn sid tf fi p) { s with cur := e } = .next { t with cur := e }) ∧
    (∃ t, exec (.nack pn sid tf fi p) s = .next t ∧
      exec (.nack pn sid tf fi p) { s with cur := e } = .next { t with cur := e })

/-! The outbound queue (42_outbound_queue.md). -/

/-- R166, R167: a reply is enqueued at the tail with the number it answers and no fresh one, or, when the queue is full,
dropped with no effect at all. -/
def Obligations.ReplyIsQueuedOrDropped : Prop :=
  ∀ (t : ReplyType) (pn : U16) (s : State),
    (s.txq.length < s.cfg.maxQueuedPackets →
      reply t pn s =
        { s with txq := s.txq ++
          [{ header := { packetNumber := pn, type := t.frameType, payloadSize := 0, streamId := 0, totalFragments := 0,
                         fragmentIndex := 0 },
             payload := [], retryCount := 0, maxRetries := 0, retryOnNack := false, enqueueTick := s.tick }] }) ∧
    (s.cfg.maxQueuedPackets ≤ s.txq.length → reply t pn s = s)

/-- R153: a payload of at most `MaxPayload` bytes is one `SingleData` entry, or `BufferFull` and nothing else. -/
def Obligations.SendOfOnePacket : Prop :=
  ∀ (p : List Byte) (mr : U8) (ron : Bool) (s : State), p.length ≤ s.cfg.maxPayload →
    (s.txq.length < s.cfg.maxQueuedPackets →
      exec (.send p mr ron) s =
        .next { s with
          txq := s.txq ++
            [{ header := { packetNumber := s.nextPacketNumber, type := .singleData,
                           payloadSize := BitVec.ofNat 16 p.length, streamId := 0, totalFragments := 0,
                           fragmentIndex := 0 },
               payload := p, retryCount := 0, maxRetries := mr, retryOnNack := ron, enqueueTick := s.tick }]
          nextPacketNumber := s.nextPacketNumber + 1
          io := { s.io with returned := some { outcome := .success, streamId := 0, fragmentCount := 0 } } }) ∧
    (s.cfg.maxQueuedPackets ≤ s.txq.length →
      exec (.send p mr ron) s =
        .next { s with io := { s.io with returned := some { outcome := .bufferFull, streamId := 0, fragmentCount := 0 } } })

/-- R154: a longer payload. With more than 65535 fragments nothing happens but `BufferFull`. Otherwise the stream id is
taken, the fragments the queue has room for are enqueued in order and stay, and the result is `Success` if all fitted. The
queue holds no more than its capacity (R28; the invariant of EveryStepKeepsInvariants). -/
def Obligations.SendOfFragments : Prop :=
  ∀ (p : List Byte) (mr : U8) (ron : Bool) (s : State), s.cfg.maxPayload < p.length →
    s.txq.length ≤ s.cfg.maxQueuedPackets →
    let n := fragmentCount s.cfg p.length
    let room := s.cfg.maxQueuedPackets - s.txq.length
    (65535 < n →
      exec (.send p mr ron) s =
        .next { s with io := { s.io with returned := some { outcome := .bufferFull, streamId := 0, fragmentCount := 0 } } }) ∧
    (n ≤ 65535 →
      exec (.send p mr ron) s =
        .next { s with
          txq := s.txq ++ (List.range (min n room)).map (fragmentEntry p mr ron s)
          nextPacketNumber := s.nextPacketNumber + BitVec.ofNat 16 (min n room)
          nextStreamId := if s.nextStreamId = 0xFFFFFFFF#32 then 1 else s.nextStreamId + 1
          io := { s.io with
            returned := some { outcome := if n ≤ room then .success else .bufferFull, streamId := s.nextStreamId,
                               fragmentCount := BitVec.ofNat 16 n } } })

/-- R157, and R154 it is derived from: when a fragmented `SEND` succeeds, the entries it enqueued are the `ceil` number of fragments, in index order, all
of one stream and one total, each but the last full, and their payloads joined are the payload. -/
def Obligations.FragmentationIsComplete : Prop :=
  ∀ (p : List Byte) (mr : U8) (ron : Bool) (s t : State), s.cfg.Valid → s.cfg.maxPayload < p.length →
    exec (.send p mr ron) s = .next t → t.io.returned.map (fun r => r.outcome) = some .success →
    ∃ es : List PendingPacket, t.txq = s.txq ++ es ∧
      (es.length - 1) * s.cfg.maxPayload < p.length ∧ p.length ≤ es.length * s.cfg.maxPayload ∧
      (es.map fun e => e.payload).flatten = p ∧
      (∀ (i : Nat) (e : PendingPacket), es[i]? = some e →
        e.header.type = .fragmentData ∧ e.header.totalFragments.toNat = es.length ∧
        e.header.fragmentIndex.toNat = i ∧ e.header.streamId = s.nextStreamId ∧
        e.header.payloadSize.toNat = e.payload.length ∧
        (i + 1 < es.length → e.payload.length = s.cfg.maxPayload) ∧ 1 ≤ e.payload.length)

/-- R156: `SEND_NOACK` enqueues one `SingleNoAck` entry without retries, or returns `BufferFull` and changes nothing: when
the payload is oversize, or the queue full. -/
def Obligations.SendNoAckOutcomes : Prop :=
  ∀ (p : List Byte) (s : State),
    (p.length ≤ s.cfg.maxPayload → s.txq.length < s.cfg.maxQueuedPackets →
      exec (.sendNoAck p) s =
        .next { s with
          txq := s.txq ++
            [{ header := { packetNumber := s.nextPacketNumber, type := .singleNoAck,
                           payloadSize := BitVec.ofNat 16 p.length, streamId := 0, totalFragments := 0,
                           fragmentIndex := 0 },
               payload := p, retryCount := 0, maxRetries := 0, retryOnNack := false, enqueueTick := s.tick }]
          nextPacketNumber := s.nextPacketNumber + 1
          io := { s.io with returned := some { outcome := .success, streamId := 0, fragmentCount := 0 } } }) ∧
    (s.cfg.maxPayload < p.length ∨ s.cfg.maxQueuedPackets ≤ s.txq.length →
      exec (.sendNoAck p) s =
        .next { s with io := { s.io with returned := some { outcome := .bufferFull, streamId := 0, fragmentCount := 0 } } })

/-- R190: the sweep frees exactly the active slots older than the threshold and reports each as `Timeout`, in ascending slot
order; nothing else changes. -/
def Obligations.SweepReportsExpiredStreams : Prop :=
  ∀ s : State,
    sweepTimeouts s =
      { s with
        streams := sweptTable s.cfg s.tick s.streams
        io := { s.io with events := s.io.events ++ timeoutCalls s.cfg s.tick s.streams } }

/-- R160 with nothing to send: `PROCESS` advances the tick and sweeps, and makes no `TX` call. -/
def Obligations.ProcessWithNothingToSend : Prop :=
  ∀ s : State, s.cur = none → s.txq = [] →
    exec .process s =
      .next { s with
        tick := s.tick + 1
        streams := sweptTable s.cfg (s.tick + 1) s.streams
        io := { s.io with
          events := s.io.events ++ timeoutCalls s.cfg (s.tick + 1) s.streams
          returned := none } }

/-- R160 to R162: with a packet in the current slot, or else with one at the head of the queue, `PROCESS` offers that
packet's frame to `TX` exactly once; on success the packet is gone, on failure it stays in the current slot unchanged; then
the sweep. -/
def Obligations.ProcessOffersOnePacket : Prop :=
  ∀ (s : State) (e : PendingPacket) (rest : List PendingPacket),
    (s.cur = some e ∧ s.txq = rest) ∨ (s.cur = none ∧ s.txq = e :: rest) →
    e.header.payloadSize.toNat = e.payload.length → e.payload.length ≤ s.cfg.maxPayload →
    exec .process s =
      .next { s with
        tick := s.tick + 1
        txq := rest
        cur := if txAnswer s then none else some e
        streams := sweptTable s.cfg (s.tick + 1) s.streams
        io := { s.io with
          txAnswers := s.io.txAnswers.tail
          answersAsked := s.io.answersAsked + 1
          events := s.io.events ++ [.tx (frameBytes s.cfg e.header e.payload)] ++
            timeoutCalls s.cfg (s.tick + 1) s.streams
          returned := none } }

/-- R101: `Encode` has no meaning outside its precondition and the model refuses it: `PROCESS` on such a packet. -/
def Obligations.ProcessRefusesUnencodablePacket : Prop :=
  ∀ (s : State) (e : PendingPacket), s.cur = some e →
    (e.header.payloadSize.toNat ≠ e.payload.length ∨ s.cfg.maxPayload < e.payload.length) →
    exec .process s = .refused .encodeOutsidePrecondition

/-- R164: while `TX` answers failure, every `PROCESS` offers the same frame again, byte for byte; the packet and everything
behind it stay. -/
def Obligations.FailingTransportIsOfferedAgain : Prop :=
  ∀ (k : Nat) (s : State) (e : PendingPacket), s.cur = some e → PacketOk s.cfg e →
    k ≤ s.io.txAnswers.length → (∀ a ∈ s.io.txAnswers.take k, a = false) →
    ∃ t, processTimes k s = .next t ∧ t.cur = some e ∧ t.txq = s.txq ∧
      ∃ evs, t.io.events = s.io.events ++ evs ∧
        evs.filter isTx =
          List.replicate k (.tx (frameBytes s.cfg e.header e.payload))

/-- R191: a stream no fragment refreshes stays active, and is not reported, through every `PROCESS` that leaves its age within
the threshold; the `PROCESS` that takes its age past it frees the slot and reports it as `Timeout`, and none reports it
again: `evs` are the calls these `j` commands make. No other active slot holds its id, by the invariants. -/
def Obligations.StreamTimesOutPastThreshold : Prop :=
  ∀ (j k : Nat) (s : State) (x : StreamSlot), s.Inv → s.streams[k]? = some x → x.completed = false →
    ∃ (t : State) (evs : List Event), processTimes j s = .next t ∧ t.io.events = s.io.events ++ evs ∧
      ((s.tick - x.lastActivityTick).toNat + j ≤ s.cfg.streamTimeoutTicks →
        t.streams[k]? = some x ∧ .complete x.streamId .timeout ∉ evs) ∧
      (s.cfg.streamTimeoutTicks < (s.tick - x.lastActivityTick).toNat + j →
        t.streams[k]? = some { x with completed := true } ∧ evs.count (.complete x.streamId .timeout) = 1)

/-- A packet the transport accepted exists nowhere (R162, R209), whether it stood in the current slot or, with that empty,
was taken from the queue's head in the same call (Scenario A): if no eligible packet left in the queue shares its number,
an `Ack` or a `Nack` that comes after the `PROCESS` that transmitted it has no effect. -/
def Obligations.AckAfterHandOffFindsNothing : Prop :=
  ∀ (s : State) (e : PendingPacket) (rest : List PendingPacket) (sid : U32) (tf fi : U16) (p : List Byte),
    (s.cur = some e ∧ s.txq = rest) ∨ (s.cur = none ∧ s.txq = e :: rest) →
    PacketOk s.cfg e → txAnswer s = true →
    (∀ x ∈ rest, x.header.packetNumber = e.header.packetNumber →
      x.header.type ≠ .singleData ∧ x.header.type ≠ .fragmentData) →
    ∃ t, exec .process s = .next t ∧ t.cur = none ∧ t.txq = rest ∧
      exec (.ack e.header.packetNumber sid tf fi p) t = .next t ∧
      exec (.nack e.header.packetNumber sid tf fi p) t = .next t

/-! The machine as a whole. -/

/-- R40: the state after reset, for every configuration (the values are the spec's own, D34); `State.reset` is that of one
valid configuration. -/
def Obligations.ResetValues : Prop :=
  ∀ c : Config,
    (State.resetWith c).rx = [] ∧ (State.resetWith c).txq = [] ∧ (State.resetWith c).cur = none ∧
    (State.resetWith c).streams.length = c.maxStreams ∧
    (∀ x ∈ (State.resetWith c).streams,
      x = { streamId := 0, totalFragments := 0, lastActivityTick := 0, completed := true }) ∧
    (State.resetWith c).nextPacketNumber = 0 ∧ (State.resetWith c).nextStreamId = 1 ∧ (State.resetWith c).tick = 0 ∧
    (∃ d : Config, d.Valid ∧ State.reset = State.resetWith d)

/-- A configuration outside the bounds of R8 and R9, or whose type codes are not injective (R75), is not built; every other
one starts in its reset state (R273). That the injectivity of `TypeCode`, which R273 does not list, is refused with the
bounds is DEDUCED (log 13). -/
def Obligations.ConstructionRefusesInvalidConfigurations : Prop :=
  ∀ c : Config,
    (c.Valid → construct c = .next (State.resetWith c)) ∧ (¬ c.Valid → construct c = .refused .invalidConfiguration)

/-- The reset state of every valid configuration satisfies the invariants, and so does `State.reset` (its configuration is
the model's choice, log 1). -/
def Obligations.ResetSatisfiesInvariants : Prop :=
  (∀ c : Config, c.Valid → (State.resetWith c).Inv) ∧ State.reset.Inv

/-- On every state that satisfies the invariants every instruction of the instance has a next state (R241), and that state
satisfies them too: R241 says the former; the invariants are those of EveryStepKeepsInvariants and rest on the rules it
cites. -/
def Obligations.EveryInstructionRunsAndKeepsInvariants : Prop :=
  ∀ (i : Instr) (s : State), s.Inv → i.wf s.cfg = true → ∃ t, exec i s = .next t ∧ t.Inv

/-- Every step keeps the invariants of 10_state.md. -/
def Obligations.EveryStepKeepsInvariants : Prop :=
  ∀ s t : State, s.Inv → step s = .next t → t.Inv

/-- A step runs the next command of the port: where the ring holds no whole candidate, `step` is `exec` of the decoded
command with the command taken from the port (R15). That the port is a queue in State, and that a whole candidate in the
ring would go first, is the model's choice (logs 5, 8). -/
def Obligations.StepRunsTheNextCommand : Prop :=
  ∀ (s : State) (w : CommandWord) (rest : List CommandWord) (i : Instr),
    s.RingOk → s.io.commands = w :: rest → decode s.cfg (.command w) = .ok i →
    step s = exec i { s with io := { s.io with commands := rest } }

/-- A step runs the frame at the head of the ring: where the ring begins with the bytes of a well-formed frame, `step` is
`exec` of that frame with its bytes consumed (R124, R126). That a step looks at the ring before the port is the model's
choice (log 8); no command leaves a whole frame there (R131). -/
def Obligations.StepRunsTheFrameAtTheRingHead : Prop :=
  ∀ (s : State) (i : Instr) (b rest : List Byte),
    s.cfg.Valid → i.wf s.cfg = true → encode s.cfg i = .frame b → s.rx = b ++ rest →
    step s = exec i { s with rx := rest }

/-- R220: with no command at the port and no whole candidate in the ring, nothing changes. That such a step is a step is
the model's choice (log 5). -/
def Obligations.StepIdlesWithoutCommands : Prop :=
  ∀ s : State, s.RingOk → s.io.commands = [] → step s = .next s

/-- A tag outside the five of R80 is refused by name: the model's choice (log 4). -/
def Obligations.IllegalTagIsRefused : Prop :=
  ∀ (s : State) (w : CommandWord) (rest : List CommandWord),
    s.RingOk → s.io.commands = w :: rest → 4 < w.tag.toNat → step s = .refused (.illegalCommandTag w.tag)

/-- R24: the tick advances by 1 modulo 2^32 in `PROCESS` and in nothing else. -/
def Obligations.TickAdvancesInProcessOnly : Prop :=
  ∀ (i : Instr) (s t : State), exec i s = .next t → t.tick = if i = .process then s.tick + 1 else s.tick

/-- R22: packet numbers advance by one, modulo 2^16, for each entry a `SEND` or `SEND_NOACK` enqueued, and by nothing
else. -/
def Obligations.PacketNumbersCountEnqueuedEntries : Prop :=
  (∀ (i : Instr) (s t : State), exec i s = .next t →
    (∀ p mr ron, i ≠ .send p mr ron) → (∀ p, i ≠ .sendNoAck p) → t.nextPacketNumber = s.nextPacketNumber) ∧
  (∀ (p : List Byte) (mr : U8) (ron : Bool) (s t : State),
    exec (.send p mr ron) s = .next t ∨ exec (.sendNoAck p) s = .next t →
    ∃ es : List PendingPacket, t.txq = s.txq ++ es ∧
      t.nextPacketNumber = s.nextPacketNumber + BitVec.ofNat 16 es.length ∧
      ∀ (n : Nat) (e : PendingPacket), es[n]? = some e →
        e.header.packetNumber = s.nextPacketNumber + BitVec.ofNat 16 n)

/-- R23: the stream id advances only in a fragmented `SEND` (one whose count fits), from `0xFFFFFFFF` to 1, and never
becomes 0. -/
def Obligations.StreamIdsAdvanceInFragmentedSendOnly : Prop :=
  ∀ (i : Instr) (s t : State), exec i s = .next t →
    (t.nextStreamId = s.nextStreamId ∨
      ((∃ p mr ron, i = .send p mr ron ∧ s.cfg.maxPayload < p.length) ∧
        t.nextStreamId = if s.nextStreamId = 0xFFFFFFFF#32 then 1 else s.nextStreamId + 1)) ∧
    (s.nextStreamId ≠ 0 → t.nextStreamId ≠ 0)

/-- R219 and R245: what a command cannot do. The sends write no ring, slot, table or tick and call no collaborator; the
inbound commands write no current slot, tick or counter, call no `TX` and report no `Timeout`; `PROCESS` writes no ring and
no counter, calls `DELIVER` never, `TX` at most once and first, and reports nothing but `Timeout`. -/
def Obligations.CommandsKeepToTheirEffects : Prop :=
  ∀ (i : Instr) (s t : State), exec i s = .next t →
    ((∃ p mr ron, i = .send p mr ron) ∨ (∃ p, i = .sendNoAck p) →
      t.rx = s.rx ∧ t.cur = s.cur ∧ t.streams = s.streams ∧ t.tick = s.tick ∧ t.io.events = s.io.events) ∧
    ((∃ b, i = .feed b) ∨ (∃ bs, i = .dataReceived bs) →
      t.cur = s.cur ∧ t.tick = s.tick ∧ t.nextPacketNumber = s.nextPacketNumber ∧ t.nextStreamId = s.nextStreamId ∧
      ∃ evs, t.io.events = s.io.events ++ evs ∧
        ∀ v ∈ evs, (∀ f, v ≠ .tx f) ∧ ∀ sid, v ≠ .complete sid .timeout) ∧
    (i = .process →
      t.rx = s.rx ∧ t.nextPacketNumber = s.nextPacketNumber ∧ t.nextStreamId = s.nextStreamId ∧
      ∃ (calls : List Event) (sids : List U32), t.io.events = s.io.events ++ calls ++ sids.map (fun sid => .complete sid .timeout) ∧
        (calls = [] ∨ ∃ f, calls = [.tx f]))

/-- R27: no step changes the configuration. -/
def Obligations.ConfigurationIsConstant : Prop :=
  ∀ s t : State, step s = .next t → t.cfg = s.cfg

/-- R37: `enqueueTick` is read by no operation: with every one of them erased before, an instruction does the same to
everything else. -/
def Obligations.EnqueueTickIsNeverRead : Prop :=
  ∀ (i : Instr) (s t : State), exec i s = .next t →
    ∃ u, exec i (eraseEnqueueTicks s) = .next u ∧ eraseEnqueueTicks u = eraseEnqueueTicks t

/-- R33: the other fields of a free slot are read by no rule: with all of them erased before, an instruction does the same
to everything else. -/
def Obligations.FreeSlotFieldsAreNeverRead : Prop :=
  ∀ (i : Instr) (s t : State), exec i s = .next t →
    ∃ u, exec i (eraseFreeSlots s) = .next u ∧ eraseFreeSlots u = eraseFreeSlots t
end

