-- ==== Sys2Proof/Laws/Codec.lean ====
section
/-! SUPPORT. The small lemmas of the codec: byte order, lengths, where each field of a frame lies, type codes. -/

namespace Sys2Proof

/-! The sizes of R8, as numbers. -/

theorem headerSize_eq : headerSize = 13 := rfl
theorem checksumSize_eq : checksumSize = 2 := rfl
theorem minFrameSize_eq : minFrameSize = 15 := rfl
theorem maxPayload_eq (c : Config) : c.maxPayload = c.maxPacketSize - 15 := rfl

/-! Byte order. -/

@[simp] theorem bytes16_length (v : U16) : (bytes16 v).length = 2 := rfl
@[simp] theorem bytes32_length (v : U32) : (bytes32 v).length = 4 := rfl

/-- The two bytes of a 16-bit value, put together again. -/
theorem append_extract16 (v : U16) : v.extractLsb' 8 8 ++ v.extractLsb' 0 8 = v := by
  apply BitVec.eq_of_getLsbD_eq
  intro i hi
  rw [BitVec.getLsbD_append]
  by_cases h : i < 8
  · simp [h]
  · simp [h, show i - 8 < 8 by omega, show 8 + (i - 8) = i by omega]

/-- The four bytes of a 32-bit value, put together again. -/
theorem append_extract32 (v : U32) :
    (v.extractLsb' 24 8 ++ v.extractLsb' 16 8) ++ (v.extractLsb' 8 8 ++ v.extractLsb' 0 8) = v := by
  apply BitVec.eq_of_getLsbD_eq
  intro i hi
  simp only [BitVec.getLsbD_append, BitVec.getLsbD_extractLsb']
  by_cases h : i < 8
  · simp [h, show i < 16 by omega]
  · by_cases h2 : i < 16
    · simp [h, h2, show i - 8 < 8 by omega, show 8 + (i - 8) = i by omega]
    · by_cases h3 : i < 24
      · simp [h2, show i - 16 < 8 by omega, show 16 + (i - 16) = i by omega]
      · simp [h2, show ¬ i - 16 < 8 by omega, show i - 16 - 8 < 8 by omega, show 24 + (i - 16 - 8) = i by omega]

/-- `le16` reads its two bytes only. -/
theorem le16_eq (a b : List Byte) (i j : Nat) (h0 : a.getD i 0 = b.getD j 0) (h1 : a.getD (i + 1) 0 = b.getD (j + 1) 0) :
    le16 a i = le16 b j := by
  simp only [le16, h0, h1]

/-- `le16` within the first part of a joined sequence. -/
theorem le16_append_left (a b : List Byte) (i : Nat) (h : i + 1 < a.length) : le16 (a ++ b) i = le16 a i := by
  refine le16_eq _ _ _ _ ?_ ?_ <;> simp [List.getElem?_append_left, h, Nat.lt_of_succ_lt h]

/-- `le16` of a prefix that holds both bytes. -/
theorem le16_take (b : List Byte) (i n : Nat) (h : i + 1 < n) : le16 (b.take n) i = le16 b i := by
  refine le16_eq _ _ _ _ ?_ ?_ <;> simp [h, Nat.lt_of_succ_lt h]

/-- `le16` gives back a value where its bytes stand. -/
theorem le16_append_bytes16 (a b : List Byte) (v : U16) : le16 (a ++ (bytes16 v ++ b)) a.length = v := by
  have h0 : (a ++ (bytes16 v ++ b)).getD a.length 0 = v.extractLsb' 0 8 := by simp [bytes16]
  have h1 : (a ++ (bytes16 v ++ b)).getD (a.length + 1) 0 = v.extractLsb' 8 8 := by
    simp [bytes16]
  unfold le16
  rw [h0, h1]
  exact append_extract16 v

/-! Where a frame's parts lie (R70). -/

@[simp] theorem headerBytes_length (c : Config) (h : Header) : (headerBytes c h).length = headerSize := rfl

@[simp] theorem sealBytes_length (d : List Byte) : (sealBytes d).length = d.length + checksumSize := by
  simp [sealBytes, checksumSize]

@[simp] theorem frameBytes_length (c : Config) (h : Header) (p : List Byte) :
    (frameBytes c h p).length = minFrameSize + p.length := by
  simp [frameBytes, minFrameSize]
  omega

theorem le16_headerBytes_packetNumber (c : Config) (h : Header) (l : List Byte) :
    le16 (headerBytes c h ++ l) 0 = h.packetNumber :=
  append_extract16 _

theorem getD_headerBytes_type (c : Config) (h : Header) (l : List Byte) :
    (headerBytes c h ++ l).getD 2 0 = typeCode c h.type := rfl

theorem le16_headerBytes_payloadSize (c : Config) (h : Header) (l : List Byte) :
    le16 (headerBytes c h ++ l) 3 = h.payloadSize :=
  append_extract16 _

theorem le32_headerBytes_streamId (c : Config) (h : Header) (l : List Byte) :
    le32 (headerBytes c h ++ l) 5 = h.streamId :=
  append_extract32 _

theorem le16_headerBytes_totalFragments (c : Config) (h : Header) (l : List Byte) :
    le16 (headerBytes c h ++ l) 9 = h.totalFragments :=
  append_extract16 _

theorem le16_headerBytes_fragmentIndex (c : Config) (h : Header) (l : List Byte) :
    le16 (headerBytes c h ++ l) 11 = h.fragmentIndex :=
  append_extract16 _

/-- The header a frame's bytes hold is the header they were written from. -/
theorem headerAt_headerBytes (c : Config) (h : Header) (l : List Byte) : headerAt h.type (headerBytes c h ++ l) = h := by
  cases h
  simp only [headerAt, le16_headerBytes_packetNumber, le16_headerBytes_payloadSize, le32_headerBytes_streamId,
    le16_headerBytes_totalFragments, le16_headerBytes_fragmentIndex]

/-- The checksum field of a sealed sequence holds the checksum of what stands before it (R74). -/
theorem le16_sealBytes (d : List Byte) : le16 (sealBytes d) d.length = crc16 d := by
  simpa [sealBytes] using le16_append_bytes16 d [] (crc16 d)

@[simp] theorem sealBytes_take (d : List Byte) : (sealBytes d).take d.length = d := by
  simp [sealBytes]

/-! Type codes (R75). -/

/-- With an injective `TypeCode` each code is read back as its type. -/
theorem typeOfCode_typeCode (c : Config) (hc : c.typeCodes.Injective) (t : FrameType) :
    typeOfCode c (typeCode c t) = some t := by
  simp only [TypeCodes.Injective, List.nodup_cons, List.mem_cons, List.not_mem_nil, or_false, not_or, not_false_eq_true,
    List.nodup_nil, and_true] at hc
  obtain ⟨⟨h01, h02, h03, h04⟩, ⟨h12, h13, h14⟩, ⟨h23, h24⟩, h34⟩ := hc
  cases t <;>
    simp [typeOfCode, typeCode, Ne.symm h01, Ne.symm h02, Ne.symm h03, Ne.symm h04, Ne.symm h12, Ne.symm h13, Ne.symm h14,
      Ne.symm h23, Ne.symm h24, Ne.symm h34]

/-- A byte read as a type is that type's code. -/
theorem typeCode_of_typeOfCode (c : Config) (b : Byte) (t : FrameType) (h : typeOfCode c b = some t) :
    b = typeCode c t := by
  unfold typeOfCode at h
  repeat' split at h
  all_goals first
    | (cases h; assumption)
    | cases h

/-! The checksum as a fold. -/

@[simp] theorem crc16_nil : crc16 [] = 0xFFFF#16 := rfl

theorem crc16_append (a b : List Byte) : crc16 (a ++ b) = b.foldl crcByte (crc16 a) := by
  simp [crc16, List.foldl_append]

/-! What `Decode` and `Encode` can answer. -/

/-- `Encode` answers exactly within its precondition. -/
theorem encodeFrame_eq_some (c : Config) (h : Header) (p b : List Byte) :
    encodeFrame c h p = some b ↔ (h.payloadSize.toNat = p.length ∧ p.length ≤ c.maxPayload) ∧ frameBytes c h p = b := by
  unfold encodeFrame encodable
  by_cases hp : (h.payloadSize.toNat == p.length && decide (p.length ≤ c.maxPayload)) = true
  · simp only [hp, if_true, Option.some.injEq]
    simp only [Bool.and_eq_true, beq_iff_eq, decide_eq_true_eq] at hp
    simp [hp]
  · simp only [hp]
    simp only [Bool.and_eq_true, beq_iff_eq, decide_eq_true_eq] at hp
    simp [hp]

/-- When `Decode` succeeds, its checks passed, and the header and the payload are the bytes' own. -/
theorem decodeFrame_ok (c : Config) (b : List Byte) (h : Header) (p : List Byte) (hd : decodeFrame c b = .ok h p) :
    minFrameSize ≤ b.length ∧ (le16 b 3).toNat = b.length - minFrameSize ∧ (le16 b 3).toNat ≤ c.maxPayload ∧
      b.getD 2 0 = typeCode c h.type ∧ h = headerAt h.type b ∧
      p = (b.take (b.length - checksumSize)).drop headerSize := by
  unfold decodeFrame at hd
  split at hd
  · cases hd
  split at hd
  · cases hd
  split at hd
  · cases hd
  rename_i h1 _ h3
  split at hd
  · cases hd
  · rename_i t ht
    injection hd with hh hp
    subst hh
    simp only [not_or, not_lt, ne_eq, not_not] at h1 h3
    exact ⟨h1, h3.1, h3.2, typeCode_of_typeOfCode c _ _ ht, rfl, hp.symm⟩

end Sys2Proof
end

