-- ==== Sys2Proof/Laws/State.lean ====
section
/-! SUPPORT. What each named operation leaves in each field of the state: one lemma per field per operation. -/

namespace Sys2Proof.Machine

/-! `rxAppend` -/

@[simp] theorem rxAppend_cfg (b : Byte) (s : State) : (rxAppend b s).cfg = s.cfg := by
  unfold rxAppend; split <;> rfl
@[simp] theorem rxAppend_rx (b : Byte) (s : State) :
    (rxAppend b s).rx =
      if s.rx.length < s.cfg.rxBufferSize then s.rx ++ [b] else s.rx := by
  unfold rxAppend; split <;> rfl
@[simp] theorem rxAppend_txq (b : Byte) (s : State) : (rxAppend b s).txq = s.txq := by
  unfold rxAppend; split <;> rfl
@[simp] theorem rxAppend_cur (b : Byte) (s : State) : (rxAppend b s).cur = s.cur := by
  unfold rxAppend; split <;> rfl
@[simp] theorem rxAppend_streams (b : Byte) (s : State) : (rxAppend b s).streams = s.streams := by
  unfold rxAppend; split <;> rfl
@[simp] theorem rxAppend_nextPacketNumber (b : Byte) (s : State) : (rxAppend b s).nextPacketNumber = s.nextPacketNumber := by
  unfold rxAppend; split <;> rfl
@[simp] theorem rxAppend_nextStreamId (b : Byte) (s : State) : (rxAppend b s).nextStreamId = s.nextStreamId := by
  unfold rxAppend; split <;> rfl
@[simp] theorem rxAppend_tick (b : Byte) (s : State) : (rxAppend b s).tick = s.tick := by
  unfold rxAppend; split <;> rfl
@[simp] theorem rxAppend_io (b : Byte) (s : State) : (rxAppend b s).io = s.io := by
  unfold rxAppend; split <;> rfl

/-! `rxConsume` -/

@[simp] theorem rxConsume_cfg (n : Nat) (s : State) : (rxConsume n s).cfg = s.cfg := rfl
@[simp] theorem rxConsume_rx (n : Nat) (s : State) : (rxConsume n s).rx = s.rx.drop n := rfl
@[simp] theorem rxConsume_txq (n : Nat) (s : State) : (rxConsume n s).txq = s.txq := rfl
@[simp] theorem rxConsume_cur (n : Nat) (s : State) : (rxConsume n s).cur = s.cur := rfl
@[simp] theorem rxConsume_streams (n : Nat) (s : State) : (rxConsume n s).streams = s.streams := rfl
@[simp] theorem rxConsume_nextPacketNumber (n : Nat) (s : State) : (rxConsume n s).nextPacketNumber = s.nextPacketNumber := rfl
@[simp] theorem rxConsume_nextStreamId (n : Nat) (s : State) : (rxConsume n s).nextStreamId = s.nextStreamId := rfl
@[simp] theorem rxConsume_tick (n : Nat) (s : State) : (rxConsume n s).tick = s.tick := rfl
@[simp] theorem rxConsume_io (n : Nat) (s : State) : (rxConsume n s).io = s.io := rfl

/-! `txEnqueue` -/

@[simp] theorem txEnqueue_cfg (e : PendingPacket) (s : State) : (txEnqueue e s).cfg = s.cfg := by
  unfold txEnqueue; split <;> rfl
@[simp] theorem txEnqueue_rx (e : PendingPacket) (s : State) : (txEnqueue e s).rx = s.rx := by
  unfold txEnqueue; split <;> rfl
@[simp] theorem txEnqueue_txq (e : PendingPacket) (s : State) :
    (txEnqueue e s).txq =
      if txHasRoom s then s.txq ++ [e] else s.txq := by
  unfold txEnqueue; split <;> rfl
@[simp] theorem txEnqueue_cur (e : PendingPacket) (s : State) : (txEnqueue e s).cur = s.cur := by
  unfold txEnqueue; split <;> rfl
@[simp] theorem txEnqueue_streams (e : PendingPacket) (s : State) : (txEnqueue e s).streams = s.streams := by
  unfold txEnqueue; split <;> rfl
@[simp] theorem txEnqueue_nextPacketNumber (e : PendingPacket) (s : State) : (txEnqueue e s).nextPacketNumber = s.nextPacketNumber := by
  unfold txEnqueue; split <;> rfl
@[simp] theorem txEnqueue_nextStreamId (e : PendingPacket) (s : State) : (txEnqueue e s).nextStreamId = s.nextStreamId := by
  unfold txEnqueue; split <;> rfl
@[simp] theorem txEnqueue_tick (e : PendingPacket) (s : State) : (txEnqueue e s).tick = s.tick := by
  unfold txEnqueue; split <;> rfl
@[simp] theorem txEnqueue_io (e : PendingPacket) (s : State) : (txEnqueue e s).io = s.io := by
  unfold txEnqueue; split <;> rfl

/-! `callTx` -/

@[simp] theorem callTx_cfg (f : List Byte) (s : State) : (callTx f s).cfg = s.cfg := rfl
@[simp] theorem callTx_rx (f : List Byte) (s : State) : (callTx f s).rx = s.rx := rfl
@[simp] theorem callTx_txq (f : List Byte) (s : State) : (callTx f s).txq = s.txq := rfl
@[simp] theorem callTx_cur (f : List Byte) (s : State) : (callTx f s).cur = s.cur := rfl
@[simp] theorem callTx_streams (f : List Byte) (s : State) : (callTx f s).streams = s.streams := rfl
@[simp] theorem callTx_nextPacketNumber (f : List Byte) (s : State) : (callTx f s).nextPacketNumber = s.nextPacketNumber := rfl
@[simp] theorem callTx_nextStreamId (f : List Byte) (s : State) : (callTx f s).nextStreamId = s.nextStreamId := rfl
@[simp] theorem callTx_tick (f : List Byte) (s : State) : (callTx f s).tick = s.tick := rfl
@[simp] theorem callTx_io (f : List Byte) (s : State) :
    (callTx f s).io =
      { s.io with txAnswers := s.io.txAnswers.tail, answersAsked := s.io.answersAsked + 1, events := s.io.events ++ [.tx f] } := rfl

/-! `callDeliver` -/

@[simp] theorem callDeliver_cfg (sid : U32) (fi tf : U16) (p : List Byte) (s : State) : (callDeliver sid fi tf p s).cfg = s.cfg := rfl
@[simp] theorem callDeliver_rx (sid : U32) (fi tf : U16) (p : List Byte) (s : State) : (callDeliver sid fi tf p s).rx = s.rx := rfl
@[simp] theorem callDeliver_txq (sid : U32) (fi tf : U16) (p : List Byte) (s : State) : (callDeliver sid fi tf p s).txq = s.txq := rfl
@[simp] theorem callDeliver_cur (sid : U32) (fi tf : U16) (p : List Byte) (s : State) : (callDeliver sid fi tf p s).cur = s.cur := rfl
@[simp] theorem callDeliver_streams (sid : U32) (fi tf : U16) (p : List Byte) (s : State) : (callDeliver sid fi tf p s).streams = s.streams := rfl
@[simp] theorem callDeliver_nextPacketNumber (sid : U32) (fi tf : U16) (p : List Byte) (s : State) : (callDeliver sid fi tf p s).nextPacketNumber = s.nextPacketNumber := rfl
@[simp] theorem callDeliver_nextStreamId (sid : U32) (fi tf : U16) (p : List Byte) (s : State) : (callDeliver sid fi tf p s).nextStreamId = s.nextStreamId := rfl
@[simp] theorem callDeliver_tick (sid : U32) (fi tf : U16) (p : List Byte) (s : State) : (callDeliver sid fi tf p s).tick = s.tick := rfl
@[simp] theorem callDeliver_io (sid : U32) (fi tf : U16) (p : List Byte) (s : State) :
    (callDeliver sid fi tf p s).io =
      { s.io with deliverAnswers := s.io.deliverAnswers.tail, answersAsked := s.io.answersAsked + 1, events := s.io.events ++ [.deliver sid fi tf p] } := rfl

/-! `callComplete` -/

@[simp] theorem callComplete_cfg (sid : U32) (r : CompletionResult) (s : State) : (callComplete sid r s).cfg = s.cfg := rfl
@[simp] theorem callComplete_rx (sid : U32) (r : CompletionResult) (s : State) : (callComplete sid r s).rx = s.rx := rfl
@[simp] theorem callComplete_txq (sid : U32) (r : CompletionResult) (s : State) : (callComplete sid r s).txq = s.txq := rfl
@[simp] theorem callComplete_cur (sid : U32) (r : CompletionResult) (s : State) : (callComplete sid r s).cur = s.cur := rfl
@[simp] theorem callComplete_streams (sid : U32) (r : CompletionResult) (s : State) : (callComplete sid r s).streams = s.streams := rfl
@[simp] theorem callComplete_nextPacketNumber (sid : U32) (r : CompletionResult) (s : State) : (callComplete sid r s).nextPacketNumber = s.nextPacketNumber := rfl
@[simp] theorem callComplete_nextStreamId (sid : U32) (r : CompletionResult) (s : State) : (callComplete sid r s).nextStreamId = s.nextStreamId := rfl
@[simp] theorem callComplete_tick (sid : U32) (r : CompletionResult) (s : State) : (callComplete sid r s).tick = s.tick := rfl
@[simp] theorem callComplete_io (sid : U32) (r : CompletionResult) (s : State) :
    (callComplete sid r s).io =
      { s.io with events := s.io.events ++ [.complete sid r] } := rfl

/-! `returnToHost` -/

@[simp] theorem returnToHost_cfg (r : Option SendResult) (s : State) : (returnToHost r s).cfg = s.cfg := rfl
@[simp] theorem returnToHost_rx (r : Option SendResult) (s : State) : (returnToHost r s).rx = s.rx := rfl
@[simp] theorem returnToHost_txq (r : Option SendResult) (s : State) : (returnToHost r s).txq = s.txq := rfl
@[simp] theorem returnToHost_cur (r : Option SendResult) (s : State) : (returnToHost r s).cur = s.cur := rfl
@[simp] theorem returnToHost_streams (r : Option SendResult) (s : State) : (returnToHost r s).streams = s.streams := rfl
@[simp] theorem returnToHost_nextPacketNumber (r : Option SendResult) (s : State) : (returnToHost r s).nextPacketNumber = s.nextPacketNumber := rfl
@[simp] theorem returnToHost_nextStreamId (r : Option SendResult) (s : State) : (returnToHost r s).nextStreamId = s.nextStreamId := rfl
@[simp] theorem returnToHost_tick (r : Option SendResult) (s : State) : (returnToHost r s).tick = s.tick := rfl
@[simp] theorem returnToHost_io (r : Option SendResult) (s : State) : (returnToHost r s).io = { s.io with returned := r } := rfl

/-! `reply` -/

@[simp] theorem reply_cfg (t : ReplyType) (pn : U16) (s : State) : (reply t pn s).cfg = s.cfg := by
  unfold reply txEnqueue; split <;> rfl
@[simp] theorem reply_rx (t : ReplyType) (pn : U16) (s : State) : (reply t pn s).rx = s.rx := by
  unfold reply txEnqueue; split <;> rfl
@[simp] theorem reply_txq (t : ReplyType) (pn : U16) (s : State) :
    (reply t pn s).txq =
      if txHasRoom s then s.txq ++ [replyEntry t pn s.tick] else s.txq := by
  unfold reply txEnqueue; split <;> rfl
@[simp] theorem reply_cur (t : ReplyType) (pn : U16) (s : State) : (reply t pn s).cur = s.cur := by
  unfold reply txEnqueue; split <;> rfl
@[simp] theorem reply_streams (t : ReplyType) (pn : U16) (s : State) : (reply t pn s).streams = s.streams := by
  unfold reply txEnqueue; split <;> rfl
@[simp] theorem reply_nextPacketNumber (t : ReplyType) (pn : U16) (s : State) : (reply t pn s).nextPacketNumber = s.nextPacketNumber := by
  unfold reply txEnqueue; split <;> rfl
@[simp] theorem reply_nextStreamId (t : ReplyType) (pn : U16) (s : State) : (reply t pn s).nextStreamId = s.nextStreamId := by
  unfold reply txEnqueue; split <;> rfl
@[simp] theorem reply_tick (t : ReplyType) (pn : U16) (s : State) : (reply t pn s).tick = s.tick := by
  unfold reply txEnqueue; split <;> rfl
@[simp] theorem reply_io (t : ReplyType) (pn : U16) (s : State) : (reply t pn s).io = s.io := by
  unfold reply txEnqueue; split <;> rfl

/-! `setSlot` -/

@[simp] theorem setSlot_cfg (k : Nat) (x : StreamSlot) (s : State) : (setSlot k x s).cfg = s.cfg := rfl
@[simp] theorem setSlot_rx (k : Nat) (x : StreamSlot) (s : State) : (setSlot k x s).rx = s.rx := rfl
@[simp] theorem setSlot_txq (k : Nat) (x : StreamSlot) (s : State) : (setSlot k x s).txq = s.txq := rfl
@[simp] theorem setSlot_cur (k : Nat) (x : StreamSlot) (s : State) : (setSlot k x s).cur = s.cur := rfl
@[simp] theorem setSlot_streams (k : Nat) (x : StreamSlot) (s : State) : (setSlot k x s).streams = s.streams.set k x := rfl
@[simp] theorem setSlot_nextPacketNumber (k : Nat) (x : StreamSlot) (s : State) : (setSlot k x s).nextPacketNumber = s.nextPacketNumber := rfl
@[simp] theorem setSlot_nextStreamId (k : Nat) (x : StreamSlot) (s : State) : (setSlot k x s).nextStreamId = s.nextStreamId := rfl
@[simp] theorem setSlot_tick (k : Nat) (x : StreamSlot) (s : State) : (setSlot k x s).tick = s.tick := rfl
@[simp] theorem setSlot_io (k : Nat) (x : StreamSlot) (s : State) : (setSlot k x s).io = s.io := rfl

/-! `completeSlot` -/

@[simp] theorem completeSlot_cfg (k : Nat) (s : State) : (completeSlot k s).cfg = s.cfg := rfl
@[simp] theorem completeSlot_rx (k : Nat) (s : State) : (completeSlot k s).rx = s.rx := rfl
@[simp] theorem completeSlot_txq (k : Nat) (s : State) : (completeSlot k s).txq = s.txq := rfl
@[simp] theorem completeSlot_cur (k : Nat) (s : State) : (completeSlot k s).cur = s.cur := rfl
@[simp] theorem completeSlot_streams (k : Nat) (s : State) :
    (completeSlot k s).streams =
      s.streams.set k { slotAt s k with completed := true } := rfl
@[simp] theorem completeSlot_nextPacketNumber (k : Nat) (s : State) : (completeSlot k s).nextPacketNumber = s.nextPacketNumber := rfl
@[simp] theorem completeSlot_nextStreamId (k : Nat) (s : State) : (completeSlot k s).nextStreamId = s.nextStreamId := rfl
@[simp] theorem completeSlot_tick (k : Nat) (s : State) : (completeSlot k s).tick = s.tick := rfl
@[simp] theorem completeSlot_io (k : Nat) (s : State) : (completeSlot k s).io = s.io := rfl

/-! `refreshSlot` -/

@[simp] theorem refreshSlot_cfg (k : Nat) (s : State) : (refreshSlot k s).cfg = s.cfg := rfl
@[simp] theorem refreshSlot_rx (k : Nat) (s : State) : (refreshSlot k s).rx = s.rx := rfl
@[simp] theorem refreshSlot_txq (k : Nat) (s : State) : (refreshSlot k s).txq = s.txq := rfl
@[simp] theorem refreshSlot_cur (k : Nat) (s : State) : (refreshSlot k s).cur = s.cur := rfl
@[simp] theorem refreshSlot_streams (k : Nat) (s : State) :
    (refreshSlot k s).streams =
      s.streams.set k { slotAt s k with lastActivityTick := s.tick } := rfl
@[simp] theorem refreshSlot_nextPacketNumber (k : Nat) (s : State) : (refreshSlot k s).nextPacketNumber = s.nextPacketNumber := rfl
@[simp] theorem refreshSlot_nextStreamId (k : Nat) (s : State) : (refreshSlot k s).nextStreamId = s.nextStreamId := rfl
@[simp] theorem refreshSlot_tick (k : Nat) (s : State) : (refreshSlot k s).tick = s.tick := rfl
@[simp] theorem refreshSlot_io (k : Nat) (s : State) : (refreshSlot k s).io = s.io := rfl

/-! `advanceTick` -/

@[simp] theorem advanceTick_cfg (s : State) : (advanceTick s).cfg = s.cfg := rfl
@[simp] theorem advanceTick_rx (s : State) : (advanceTick s).rx = s.rx := rfl
@[simp] theorem advanceTick_txq (s : State) : (advanceTick s).txq = s.txq := rfl
@[simp] theorem advanceTick_cur (s : State) : (advanceTick s).cur = s.cur := rfl
@[simp] theorem advanceTick_streams (s : State) : (advanceTick s).streams = s.streams := rfl
@[simp] theorem advanceTick_nextPacketNumber (s : State) : (advanceTick s).nextPacketNumber = s.nextPacketNumber := rfl
@[simp] theorem advanceTick_nextStreamId (s : State) : (advanceTick s).nextStreamId = s.nextStreamId := rfl
@[simp] theorem advanceTick_tick (s : State) : (advanceTick s).tick = s.tick + 1 := rfl
@[simp] theorem advanceTick_io (s : State) : (advanceTick s).io = s.io := rfl

/-! `takeStreamId` -/

@[simp] theorem takeStreamId_cfg (s : State) : (takeStreamId s).cfg = s.cfg := rfl
@[simp] theorem takeStreamId_rx (s : State) : (takeStreamId s).rx = s.rx := rfl
@[simp] theorem takeStreamId_txq (s : State) : (takeStreamId s).txq = s.txq := rfl
@[simp] theorem takeStreamId_cur (s : State) : (takeStreamId s).cur = s.cur := rfl
@[simp] theorem takeStreamId_streams (s : State) : (takeStreamId s).streams = s.streams := rfl
@[simp] theorem takeStreamId_nextPacketNumber (s : State) : (takeStreamId s).nextPacketNumber = s.nextPacketNumber := rfl
@[simp] theorem takeStreamId_nextStreamId (s : State) : (takeStreamId s).nextStreamId = nextStreamIdAfter s.nextStreamId := rfl
@[simp] theorem takeStreamId_tick (s : State) : (takeStreamId s).tick = s.tick := rfl
@[simp] theorem takeStreamId_io (s : State) : (takeStreamId s).io = s.io := rfl

/-! `enqueueData` -/

@[simp] theorem enqueueData_cfg (t : FrameType) (p : List Byte) (sid : U32) (tf fi : U16) (mr : U8) (ron : Bool) (s : State) : (enqueueData t p sid tf fi mr ron s).cfg = s.cfg := by
  unfold enqueueData; split <;> rfl
@[simp] theorem enqueueData_rx (t : FrameType) (p : List Byte) (sid : U32) (tf fi : U16) (mr : U8) (ron : Bool) (s : State) : (enqueueData t p sid tf fi mr ron s).rx = s.rx := by
  unfold enqueueData; split <;> rfl
@[simp] theorem enqueueData_txq (t : FrameType) (p : List Byte) (sid : U32) (tf fi : U16) (mr : U8) (ron : Bool) (s : State) :
    (enqueueData t p sid tf fi mr ron s).txq =
      if txHasRoom s then s.txq ++ [dataEntry t s.nextPacketNumber p sid tf fi mr ron s.tick] else s.txq := by
  unfold enqueueData; split <;> rfl
@[simp] theorem enqueueData_cur (t : FrameType) (p : List Byte) (sid : U32) (tf fi : U16) (mr : U8) (ron : Bool) (s : State) : (enqueueData t p sid tf fi mr ron s).cur = s.cur := by
  unfold enqueueData; split <;> rfl
@[simp] theorem enqueueData_streams (t : FrameType) (p : List Byte) (sid : U32) (tf fi : U16) (mr : U8) (ron : Bool) (s : State) : (enqueueData t p sid tf fi mr ron s).streams = s.streams := by
  unfold enqueueData; split <;> rfl
@[simp] theorem enqueueData_nextPacketNumber (t : FrameType) (p : List Byte) (sid : U32) (tf fi : U16) (mr : U8) (ron : Bool) (s : State) :
    (enqueueData t p sid tf fi mr ron s).nextPacketNumber =
      if txHasRoom s then s.nextPacketNumber + 1 else s.nextPacketNumber := by
  unfold enqueueData; split <;> rfl
@[simp] theorem enqueueData_nextStreamId (t : FrameType) (p : List Byte) (sid : U32) (tf fi : U16) (mr : U8) (ron : Bool) (s : State) : (enqueueData t p sid tf fi mr ron s).nextStreamId = s.nextStreamId := by
  unfold enqueueData; split <;> rfl
@[simp] theorem enqueueData_tick (t : FrameType) (p : List Byte) (sid : U32) (tf fi : U16) (mr : U8) (ron : Bool) (s : State) : (enqueueData t p sid tf fi mr ron s).tick = s.tick := by
  unfold enqueueData; split <;> rfl
@[simp] theorem enqueueData_io (t : FrameType) (p : List Byte) (sid : U32) (tf fi : U16) (mr : U8) (ron : Bool) (s : State) : (enqueueData t p sid tf fi mr ron s).io = s.io := by
  unfold enqueueData; split <;> rfl

/-! `handOff` -/

@[simp] theorem handOff_cfg (f : List Byte) (s : State) : (handOff f s).cfg = s.cfg := by
  unfold handOff; split <;> rfl
@[simp] theorem handOff_rx (f : List Byte) (s : State) : (handOff f s).rx = s.rx := by
  unfold handOff; split <;> rfl
@[simp] theorem handOff_txq (f : List Byte) (s : State) : (handOff f s).txq = s.txq := by
  unfold handOff; split <;> rfl
@[simp] theorem handOff_cur (f : List Byte) (s : State) : (handOff f s).cur = if txAnswer s then none else s.cur := by
  unfold handOff; split <;> rfl
@[simp] theorem handOff_streams (f : List Byte) (s : State) : (handOff f s).streams = s.streams := by
  unfold handOff; split <;> rfl
@[simp] theorem handOff_nextPacketNumber (f : List Byte) (s : State) : (handOff f s).nextPacketNumber = s.nextPacketNumber := by
  unfold handOff; split <;> rfl
@[simp] theorem handOff_nextStreamId (f : List Byte) (s : State) : (handOff f s).nextStreamId = s.nextStreamId := by
  unfold handOff; split <;> rfl
@[simp] theorem handOff_tick (f : List Byte) (s : State) : (handOff f s).tick = s.tick := by
  unfold handOff; split <;> rfl
@[simp] theorem handOff_io (f : List Byte) (s : State) : (handOff f s).io = (callTx f s).io := by
  unfold handOff; split <;> rfl

end Sys2Proof.Machine
end

