-- ==== Sys2Proof/Laws/Ops.lean ====
section
/-! SUPPORT. For each shared operation, what it can do, said once. -/

namespace Sys2Proof.Machine

/-! The queue (R53) and replies (R166, R167). -/

theorem txHasRoom_iff (s : State) : txHasRoom s = true ↔ s.txq.length < s.cfg.maxQueuedPackets := by
  simp [txHasRoom]

/-! Whether there is room depends on the queue and the configuration alone. -/

@[simp] theorem txHasRoom_callDeliver (sid : U32) (fi tf : U16) (p : List Byte) (s : State) :
    txHasRoom (callDeliver sid fi tf p s) = txHasRoom s := rfl
@[simp] theorem txHasRoom_callComplete (sid : U32) (r : CompletionResult) (s : State) :
    txHasRoom (callComplete sid r s) = txHasRoom s := rfl
@[simp] theorem txHasRoom_callTx (f : List Byte) (s : State) : txHasRoom (callTx f s) = txHasRoom s := rfl
@[simp] theorem txHasRoom_returnToHost (r : Option SendResult) (s : State) :
    txHasRoom (returnToHost r s) = txHasRoom s := rfl
@[simp] theorem txHasRoom_setSlot (k : Nat) (x : StreamSlot) (s : State) : txHasRoom (setSlot k x s) = txHasRoom s := rfl
@[simp] theorem txHasRoom_rxConsume (n : Nat) (s : State) : txHasRoom (rxConsume n s) = txHasRoom s := rfl
@[simp] theorem txHasRoom_takeStreamId (s : State) : txHasRoom (takeStreamId s) = txHasRoom s := rfl

/-- `TxEnqueue` appends at the tail or changes nothing. -/
theorem txEnqueue_cases (e : PendingPacket) (s : State) :
    (s.txq.length < s.cfg.maxQueuedPackets ∧ txEnqueue e s = { s with txq := s.txq ++ [e] }) ∨
      (s.cfg.maxQueuedPackets ≤ s.txq.length ∧ txEnqueue e s = s) := by
  unfold txEnqueue
  by_cases h : txHasRoom s = true
  · exact .inl ⟨(txHasRoom_iff s).1 h, if_pos h⟩
  · exact .inr ⟨not_lt.1 (mt (txHasRoom_iff s).2 h), if_neg h⟩

/-- A reply appends its entry or changes nothing. -/
theorem reply_cases (t : ReplyType) (pn : U16) (s : State) :
    (s.txq.length < s.cfg.maxQueuedPackets ∧ reply t pn s = { s with txq := s.txq ++ [replyEntry t pn s.tick] }) ∨
      (s.cfg.maxQueuedPackets ≤ s.txq.length ∧ reply t pn s = s) :=
  txEnqueue_cases _ s

/-- A reply writes the queue and nothing else. -/
theorem reply_eq (t : ReplyType) (pn : U16) (s : State) :
    reply t pn s = { s with txq := if txHasRoom s then s.txq ++ [replyEntry t pn s.tick] else s.txq } := by
  unfold reply txEnqueue; split <;> rfl

/-- `EnqueueData` appends a numbered entry and advances the number, or changes nothing. -/
theorem enqueueData_cases (t : FrameType) (p : List Byte) (sid : U32) (tf fi : U16) (mr : U8) (ron : Bool) (s : State) :
    (s.txq.length < s.cfg.maxQueuedPackets ∧
      enqueueData t p sid tf fi mr ron s =
        { s with txq := s.txq ++ [dataEntry t s.nextPacketNumber p sid tf fi mr ron s.tick],
                 nextPacketNumber := s.nextPacketNumber + 1 }) ∨
      (s.cfg.maxQueuedPackets ≤ s.txq.length ∧ enqueueData t p sid tf fi mr ron s = s) := by
  unfold enqueueData
  by_cases h : txHasRoom s = true
  · exact .inl ⟨(txHasRoom_iff s).1 h, if_pos h⟩
  · exact .inr ⟨not_lt.1 (mt (txHasRoom_iff s).2 h), if_neg h⟩

/-! The ring (R52). -/

/-- `RxAppend` writes the ring and nothing else. -/
theorem rxAppend_eq (b : Byte) (s : State) :
    rxAppend b s = { s with rx := if s.rx.length < s.cfg.rxBufferSize then s.rx ++ [b] else s.rx } := by
  unfold rxAppend; split <;> rfl

/-! The conditions (R230): the action of each. -/

@[simp] theorem raise_checksumMismatchData (n : Nat) (pn : U16) (s : State) :
    raise (.checksumMismatchData n pn) s = reply .nack pn (rxConsume n s) := rfl
@[simp] theorem raise_checksumMismatchOther (s : State) : raise .checksumMismatchOther s = rxConsume 1 s := rfl
@[simp] theorem raise_frameInvalid (s : State) : raise .frameInvalid s = rxConsume 1 s := rfl
@[simp] theorem raise_bufferFull (sid : U32) (n : U16) (s : State) :
    raise (.bufferFull sid n) s =
      returnToHost (some { outcome := .bufferFull, streamId := sid, fragmentCount := n }) s := rfl
@[simp] theorem raise_fragmentMismatch (pn : U16) (s : State) : raise (.fragmentMismatch pn) s = reply .nack pn s := rfl
@[simp] theorem raise_retriesExceeded (sid : U32) (s : State) :
    raise (.retriesExceeded sid) s = callComplete sid .retryExceeded s := rfl
@[simp] theorem raise_streamEvicted (k : Nat) (s : State) :
    raise (.streamEvicted k) s = callComplete (slotAt s k).streamId .error (completeSlot k s) := rfl
@[simp] theorem raise_streamTimeout (k : Nat) (s : State) :
    raise (.streamTimeout k) s = callComplete (slotAt s k).streamId .timeout (completeSlot k s) := rfl
@[simp] theorem raise_fragmentIndexOutOfRange (pn : U16) (s : State) :
    raise (.fragmentIndexOutOfRange pn) s = reply .nack pn s := rfl
@[simp] theorem raise_replyDropped (s : State) : raise .replyDropped s = s := rfl
@[simp] theorem raise_rxOverflow (s : State) : raise .rxOverflow s = s := rfl

/-- A reply that finds no room is the condition E9. -/
theorem reply_full (t : ReplyType) (pn : U16) (s : State) (h : s.cfg.maxQueuedPackets ≤ s.txq.length) :
    reply t pn s = raise .replyDropped s := by
  rcases reply_cases t pn s with ⟨h', _⟩ | ⟨_, h'⟩
  · omega
  · exact h'

/-- A byte that finds the ring full is the condition E10. -/
theorem rxAppend_full (b : Byte) (s : State) (h : s.cfg.rxBufferSize ≤ s.rx.length) :
    rxAppend b s = raise .rxOverflow s := by
  unfold rxAppend
  rw [if_neg (by omega)]
  rfl

/-! The collaborators (R58 to R60): the answers depend on the host's side only. -/

theorem deliverAnswer_congr (s t : State) (h : s.io.deliverAnswers = t.io.deliverAnswers)
    (h' : s.io.answersAsked = t.io.answersAsked) : deliverAnswer s = deliverAnswer t := by
  unfold deliverAnswer; rw [h, h']

theorem txAnswer_congr (s t : State) (h : s.io.txAnswers = t.io.txAnswers)
    (h' : s.io.answersAsked = t.io.answersAsked) : txAnswer s = txAnswer t := by
  unfold txAnswer; rw [h, h']

/-- A listed answer is the answer given. -/
theorem deliverAnswer_listed (s : State) (a : Bool) (l : List Bool) (h : s.io.deliverAnswers = a :: l) :
    deliverAnswer s = a := by
  unfold deliverAnswer; rw [h]

theorem txAnswer_listed (s : State) (a : Bool) (l : List Bool) (h : s.io.txAnswers = a :: l) : txAnswer s = a := by
  unfold txAnswer; rw [h]

/-! The stream table (R32, R33). -/

theorem slotAt_of_getElem? (s : State) (k : Nat) (x : StreamSlot) (h : s.streams[k]? = some x) : slotAt s k = x := by
  simp [slotAt, h]

theorem slotAt_congr (s t : State) (h : s.streams = t.streams) (k : Nat) : slotAt s k = slotAt t k := by
  unfold slotAt; rw [h]

@[simp] theorem setSlot_setSlot (k : Nat) (x y : StreamSlot) (s : State) :
    setSlot k x (setSlot k y s) = setSlot k x s := by
  simp [setSlot, List.set_set]

@[simp] theorem slotAt_callDeliver (sid : U32) (fi tf : U16) (p : List Byte) (s : State) (k : Nat) :
    slotAt (callDeliver sid fi tf p s) k = slotAt s k := rfl
@[simp] theorem slotAt_callComplete (sid : U32) (r : CompletionResult) (s : State) (k : Nat) :
    slotAt (callComplete sid r s) k = slotAt s k := rfl
@[simp] theorem slotAt_returnToHost (r : Option SendResult) (s : State) (k : Nat) :
    slotAt (returnToHost r s) k = slotAt s k := rfl
@[simp] theorem slotAt_rxConsume (n : Nat) (s : State) (k : Nat) : slotAt (rxConsume n s) k = slotAt s k := rfl
@[simp] theorem slotAt_reply (t : ReplyType) (pn : U16) (s : State) (k : Nat) : slotAt (reply t pn s) k = slotAt s k :=
  slotAt_congr _ _ (reply_streams t pn s) k

/-- Slot `k` after it was written. -/
theorem slotAt_setSlot_self (k : Nat) (x : StreamSlot) (s : State) (h : k < s.streams.length) :
    slotAt (setSlot k x s) k = x := by
  simp [slotAt, h]

/-- Another slot after slot `k` was written. -/
theorem slotAt_setSlot_ne (k j : Nat) (x : StreamSlot) (s : State) (h : k ≠ j) :
    slotAt (setSlot k x s) j = slotAt s j := by
  simp [slotAt, h]

theorem completeSlot_eq (k : Nat) (s : State) :
    completeSlot k s = setSlot k { slotAt s k with completed := true } s := rfl

theorem refreshSlot_eq (k : Nat) (s : State) :
    refreshSlot k s = setSlot k { slotAt s k with lastActivityTick := s.tick } s := rfl

/-- A successful lookup names the lowest slot that holds the stream (R182). -/
theorem lookupStream_eq_some (sid : U32) (s : State) (k : Nat) (x : StreamSlot) (hk : s.streams[k]? = some x)
    (ha : x.completed = false) (hs : x.streamId = sid)
    (hl : ∀ j < k, ∀ y, s.streams[j]? = some y → y.completed = false → y.streamId ≠ sid) :
    lookupStream sid s = some k := by
  obtain ⟨hlt, hx⟩ := List.getElem?_eq_some_iff.1 hk
  rw [lookupStream, List.findIdx?_eq_some_iff_getElem]
  refine ⟨hlt, by simp [hx, holdsStream, isActive, ha, hs], fun j hj => ?_⟩
  have hjl : j < s.streams.length := Nat.lt_trans hj hlt
  have := hl j hj s.streams[j] (List.getElem?_eq_getElem hjl)
  simpa [holdsStream, isActive] using this

/-- A lookup fails where no active slot holds the stream (R182). -/
theorem lookupStream_eq_none (sid : U32) (s : State)
    (h : ∀ y ∈ s.streams, y.completed = false → y.streamId ≠ sid) : lookupStream sid s = none := by
  rw [lookupStream, List.findIdx?_eq_none_iff]
  intro y hy
  have := h y hy
  cases hc : y.completed <;> simp_all [holdsStream, isActive]

end Sys2Proof.Machine
end

