-- ==== Sys2Proof/Laws/Streams.lean ====
section
/-! SUPPORT. The stream table's operations, said once each. -/

namespace Sys2Proof.Machine

/-- A delivered fragment (R185, R186, R187): the reply to `DELIVER`'s answer is queued, slot `k` is refreshed, and freed
after an accepted last fragment or a rejection; the calls are made in order. Nothing else changes. -/
theorem deliverFragment_eq (k : Nat) (pn : U16) (sid : U32) (tf fi : U16) (p : List Byte) (s : State)
    (hk : k < s.streams.length) :
    deliverFragment k pn sid tf fi p s =
      { s with
        txq := (reply (replyTo (deliverAnswer s)) pn s).txq
        streams := s.streams.set k
          { slotAt s k with
            lastActivityTick := s.tick
            completed := !deliverAnswer s || (slotAt s k).completed || isLastFragment tf fi }
        io := { s.io with
          deliverAnswers := s.io.deliverAnswers.tail
          answersAsked := s.io.answersAsked + 1
          events := s.io.events ++ .deliver sid fi tf p ::
            (if deliverAnswer s then (if isLastFragment tf fi then [.complete sid .success] else [])
             else [.complete sid .rejected]) } } := by
  have hd : deliverAnswer (refreshSlot k s) = deliverAnswer s := deliverAnswer_congr _ _ rfl rfl
  unfold deliverFragment
  simp only [hd]
  cases deliverAnswer s <;> cases isLastFragment tf fi <;>
    simp only [Bool.false_eq_true, if_true, if_false, completeSlot_eq, refreshSlot_eq, slotAt_reply, slotAt_callDeliver,
      slotAt_setSlot_self _ _ _ hk] <;>
    (apply State.ext <;> simp [replyTo]; rfl)

end Sys2Proof.Machine
end

