-- ==== Sys2Proof/Laws/Inbound.lean ====
section
/-! SUPPORT. What the ring's head can be, and what the reception of a frame leaves of the rest of the state. -/

namespace Sys2Proof.Machine

/-! The head of the ring (R123 to R128). -/

/-- The scan waits exactly where a header, or the frame its size field declares, is not yet whole (R124). -/
theorem candidate_wait_iff (c : Config) (rx : List Byte) :
    candidate c rx = .wait ↔
      rx.length < 13 ∨ ((le16 rx 3).toNat ≤ c.maxPayload ∧ rx.length < 15 + (le16 rx 3).toNat) := by
  unfold candidate
  rw [headerSize_eq, minFrameSize_eq]
  by_cases h1 : rx.length < 13
  · simp [h1]
  · by_cases h2 : c.maxPayload < (le16 rx 3).toNat
    · simp [h1, h2]
    · by_cases h3 : rx.length < 15 + (le16 rx 3).toNat
      · simp only [h1, h2, h3, if_false, if_true, false_or, and_true, true_iff]
        omega
      · simp only [h1, h2, h3, if_false, and_false, or_false, iff_false]
        split
        · simp
        · split <;> simp
        · simp

/-- A whole candidate: what `Decode` says of it decides (R126, R127, R128). -/
theorem candidate_whole (c : Config) (rx : List Byte) (h1 : (le16 rx 3).toNat ≤ c.maxPayload)
    (h2 : 15 + (le16 rx 3).toNat ≤ rx.length) :
    candidate c rx =
      match decodeFrame c (rx.take (15 + (le16 rx 3).toNat)) with
      | .ok h p => .good (15 + (le16 rx 3).toNat) h p
      | .checksumMismatch =>
        if isDataCode c (rx.getD 2 0) then .badData (15 + (le16 rx 3).toNat) (le16 rx 0) else .badOther
      | .frameInvalid => .invalid := by
  rw [candidate, headerSize_eq, if_neg (by omega), if_neg (by omega), minFrameSize_eq, if_neg (by omega)]
  all_goals rfl

/-- A good candidate is whole, and `Decode` accepted its bytes. -/
theorem candidate_good (c : Config) (rx : List Byte) (n : Nat) (h : Header) (p : List Byte)
    (hc : candidate c rx = .good n h p) :
    n = 15 + (le16 rx 3).toNat ∧ n ≤ rx.length ∧ decodeFrame c (rx.take n) = .ok h p := by
  have hw : ¬ candidate c rx = .wait := by simp [hc]
  rw [candidate_wait_iff] at hw
  by_cases h1 : (le16 rx 3).toNat ≤ c.maxPayload
  · rw [candidate_whole c rx h1 (by omega)] at hc
    split at hc
    · injection hc with a b d
      subst a b d
      exact ⟨rfl, by omega, by assumption⟩
    · split at hc <;> cases hc
    · cases hc
  · rw [candidate, headerSize_eq, if_neg (by omega), if_pos (by omega)] at hc
    cases hc

/-- A bad data-type candidate is whole, and claims the number at its first two bytes. -/
theorem candidate_badData (c : Config) (rx : List Byte) (n : Nat) (pn : U16) (hc : candidate c rx = .badData n pn) :
    n = 15 + (le16 rx 3).toNat ∧ n ≤ rx.length ∧ pn = le16 rx 0 := by
  have hw : ¬ candidate c rx = .wait := by simp [hc]
  rw [candidate_wait_iff] at hw
  by_cases h1 : (le16 rx 3).toNat ≤ c.maxPayload
  · rw [candidate_whole c rx h1 (by omega)] at hc
    split at hc
    · cases hc
    · split at hc
      · injection hc with a b
        subst a b
        exact ⟨rfl, by omega, rfl⟩
      · cases hc
    · cases hc
  · rw [candidate, headerSize_eq, if_neg (by omega), if_pos (by omega)] at hc
    cases hc

/-! The frame of the reception of a frame: what no inbound operation writes, and what calls one can make. -/

/-- `t` differs from `s` only where the reception of a frame may write: the queue, the slots, the answers and the calls;
and the calls made are no `TX` call and no `Timeout` report (R245). -/
structure ReceptionFrame (s t : State) : Prop where
  cfg : t.cfg = s.cfg
  rx : t.rx = s.rx
  cur : t.cur = s.cur
  nextPacketNumber : t.nextPacketNumber = s.nextPacketNumber
  nextStreamId : t.nextStreamId = s.nextStreamId
  tick : t.tick = s.tick
  slots : t.streams.length = s.streams.length
  commands : t.io.commands = s.io.commands
  calls : ∃ evs, t.io.events = s.io.events ++ evs ∧ ∀ v ∈ evs, (∀ f, v ≠ .tx f) ∧ ∀ sid, v ≠ .complete sid .timeout

theorem ReceptionFrame.refl (s : State) : ReceptionFrame s s :=
  ⟨rfl, rfl, rfl, rfl, rfl, rfl, rfl, rfl, [], by simp, by simp⟩

theorem ReceptionFrame.trans {s t u : State} (h : ReceptionFrame s t) (g : ReceptionFrame t u) : ReceptionFrame s u := by
  obtain ⟨a, ha, ha'⟩ := h.calls
  obtain ⟨b, hb, hb'⟩ := g.calls
  refine ⟨g.cfg.trans h.cfg, g.rx.trans h.rx, g.cur.trans h.cur, g.nextPacketNumber.trans h.nextPacketNumber,
    g.nextStreamId.trans h.nextStreamId, g.tick.trans h.tick, g.slots.trans h.slots, g.commands.trans h.commands, a ++ b,
    by rw [hb, ha, List.append_assoc], fun v hv => ?_⟩
  rcases List.mem_append.1 hv with hv | hv
  · exact ha' v hv
  · exact hb' v hv

theorem reply_frame (t : ReplyType) (pn : U16) (s : State) : ReceptionFrame s (reply t pn s) := by
  rw [reply_eq]
  exact ⟨rfl, rfl, rfl, rfl, rfl, rfl, rfl, rfl, [], by simp, by simp⟩

theorem setSlot_frame (k : Nat) (x : StreamSlot) (s : State) : ReceptionFrame s (setSlot k x s) :=
  ⟨rfl, rfl, rfl, rfl, rfl, rfl, by simp, rfl, [], by simp, by simp⟩

theorem callDeliver_frame (sid : U32) (fi tf : U16) (p : List Byte) (s : State) :
    ReceptionFrame s (callDeliver sid fi tf p s) :=
  ⟨rfl, rfl, rfl, rfl, rfl, rfl, rfl, rfl, [_], rfl, by simp⟩

theorem callComplete_frame (sid : U32) (r : CompletionResult) (s : State) (h : r ≠ .timeout) :
    ReceptionFrame s (callComplete sid r s) :=
  ⟨rfl, rfl, rfl, rfl, rfl, rfl, rfl, rfl, [_], rfl, by simp [h]⟩

theorem deliverFragment_frame (k : Nat) (pn : U16) (sid : U32) (tf fi : U16) (p : List Byte) (s : State) :
    ReceptionFrame s (deliverFragment k pn sid tf fi p s) := by
  have hd := (setSlot_frame k { slotAt s k with lastActivityTick := s.tick } s).trans (callDeliver_frame sid fi tf p _)
  unfold deliverFragment
  dsimp only
  split
  · have hr := hd.trans (reply_frame .ack pn _)
    split
    · exact (hr.trans (setSlot_frame k _ _)).trans (callComplete_frame _ _ _ (by decide))
    · exact hr
  · exact ((hd.trans (reply_frame .nack pn _)).trans (setSlot_frame k _ _)).trans (callComplete_frame _ _ _ (by decide))

theorem openStream_frame (sid : U32) (tf : U16) (s : State) : ReceptionFrame s (openStream sid tf s) := by
  unfold openStream allocateStream
  split
  · exact .refl s
  · split
    · exact setSlot_frame _ _ _
    · exact ((setSlot_frame _ _ _).trans (callComplete_frame _ _ _ (by decide))).trans (setSlot_frame _ _ _)

theorem receiveFragment_frame (pn : U16) (sid : U32) (tf fi : U16) (p : List Byte) (s : State) :
    ReceptionFrame s (receiveFragment pn sid tf fi p s) := by
  unfold receiveFragment
  split
  · dsimp only
    split
    · exact (openStream_frame _ _ _).trans (deliverFragment_frame _ _ _ _ _ _ _)
    · exact (openStream_frame _ _ _).trans (reply_frame _ _ _)
  · exact reply_frame _ _ _

theorem matchEntries_frame (isNack : Bool) (pn : U16) : ∀ (es keep again : List PendingPacket) (s : State),
    ReceptionFrame s (matchEntries isNack pn es keep again s) := by
  intro es
  induction es with
  | nil =>
    intro keep again s
    exact ⟨rfl, rfl, rfl, rfl, rfl, rfl, rfl, rfl, [], by simp [matchEntries], by simp⟩
  | cons e es ih =>
    intro keep again s
    unfold matchEntries
    split
    · split
      · exact ih _ _ _
      · split <;> exact (callComplete_frame _ _ _ (by decide)).trans (ih _ _ _)
    · exact ih _ _ _

/-- The reception of any frame keeps to that frame (R132). -/
theorem dispatchFrame_frame (h : Header) (p : List Byte) (s : State) : ReceptionFrame s (dispatchFrame h p s) := by
  unfold dispatchFrame
  split
  · exact (callDeliver_frame _ _ _ _ _).trans (reply_frame _ _ _)
  · exact callDeliver_frame _ _ _ _ _
  · exact receiveFragment_frame _ _ _ _ _ _
  · exact matchEntries_frame _ _ _ _ _ _
  · exact matchEntries_frame _ _ _ _ _ _

/-- The reception of a decoded frame is the instruction it stands for. -/
theorem exec_instrOfFrame (h : Header) (p : List Byte) (s : State) :
    exec (instrOfFrame h p) s = .next (dispatchFrame h p s) := by
  unfold instrOfFrame dispatchFrame
  cases h.type <;> rfl

end Sys2Proof.Machine
end

