-- ==== Sys2Proof/Laws/Matcher.lean ====
section
/-! SUPPORT. What the loop of the acknowledgment matcher does, said once for each of the two frame types. -/

namespace Sys2Proof.Machine

/-- The model's test of an entry is R201's number and R202's `Eligible`. -/
theorem answers_eq_decide (pn : U16) (e : PendingPacket) :
    answers pn e =
      decide (e.header.packetNumber = pn ∧ (e.header.type = .singleData ∨ e.header.type = .fragmentData)) := by
  rw [Bool.eq_iff_iff]
  simp [answers, isEligible]

/-- The loop of R201 on an `Ack`: the entries it is for are dropped and completed, the others pass over in order. -/
theorem matchEntries_ack (pn : U16) : ∀ (es keep again : List PendingPacket) (s : State),
    matchEntries false pn es keep again s =
      { s with
        txq := keep ++ (es.filter fun e => !answers pn e) ++ again
        io := { s.io with
          events := s.io.events ++ (es.filter (answers pn)).map fun e => .complete e.header.streamId .success } } := by
  intro es
  induction es with
  | nil => intro keep again s; simp [matchEntries]
  | cons e es ih =>
    intro keep again s
    unfold matchEntries
    cases h : answers pn e <;> simp [ih, h]

/-- The loop of R201 on a `Nack`: the entries it is for go to `again` where they have budget, and are dropped and completed
where they have none. -/
theorem matchEntries_nack (pn : U16) : ∀ (es keep again : List PendingPacket) (s : State),
    matchEntries true pn es keep again s =
      { s with
        txq := keep ++ (es.filter fun e => !answers pn e) ++
          (again ++ (es.filter fun e => answers pn e && hasBudget e).map (retried s.tick))
        io := { s.io with
          events := s.io.events ++
            (es.filter fun e => answers pn e && !hasBudget e).map
              fun e => .complete e.header.streamId .retryExceeded } } := by
  intro es
  induction es with
  | nil => intro keep again s; simp [matchEntries]
  | cons e es ih =>
    intro keep again s
    unfold matchEntries
    cases h : answers pn e <;> cases h2 : hasBudget e <;> simp [ih, h, h2]

end Sys2Proof.Machine
end

