-- ==== Sys2Proof/Laws/Outbound.lean ====
section
/-! SUPPORT. What the loops of the outbound queue and of the sweep do, said once each. -/

namespace Sys2Proof.Machine

/-- The loop of R154 over `m` fragment indices from `a` on: as many entries as there is room for, numbered in a row, and
`Success` if all found room. -/
theorem sendFragments_range' (p : List Byte) (sid : U32) (n : U16) (mr : U8) (ron : Bool) :
    ∀ (m a : Nat) (s : State), s.txq.length ≤ s.cfg.maxQueuedPackets →
      let room := s.cfg.maxQueuedPackets - s.txq.length
      sendFragments p sid n mr ron (List.range' a m) s =
        { s with
          txq := s.txq ++ (List.range (min m room)).map fun j =>
            dataEntry .fragmentData (s.nextPacketNumber + BitVec.ofNat 16 j) (fragment s.cfg p (a + j)) sid n
              (BitVec.ofNat 16 (a + j)) mr ron s.tick
          nextPacketNumber := s.nextPacketNumber + BitVec.ofNat 16 (min m room)
          io := { s.io with
            returned := some { outcome := if m ≤ room then .success else .bufferFull, streamId := sid,
                               fragmentCount := n } } } := by
  intro m
  induction m with
  | zero => intro a s hs; simp [sendFragments, returnSuccess, returnToHost]
  | succ m ih =>
    intro a s hs
    dsimp only at ih ⊢
    rw [List.range'_succ, sendFragments]
    by_cases h : s.txq.length < s.cfg.maxQueuedPackets
    · have hroom : txHasRoom s = true := (txHasRoom_iff s).2 h
      have he : enqueueData .fragmentData (fragment s.cfg p a) sid n (BitVec.ofNat 16 a) mr ron s =
          { s with
            txq := s.txq ++ [dataEntry .fragmentData s.nextPacketNumber (fragment s.cfg p a) sid n (BitVec.ofNat 16 a)
              mr ron s.tick]
            nextPacketNumber := s.nextPacketNumber + 1 } := if_pos hroom
      rw [if_pos hroom, ih _ _ (by rw [he]; simp; omega), he]
      have hmin : min (m + 1) (s.cfg.maxQueuedPackets - s.txq.length) =
          min m (s.cfg.maxQueuedPackets - (s.txq.length + 1)) + 1 := by omega
      have hnum (j : Nat) : s.nextPacketNumber + 1#16 + BitVec.ofNat 16 j = s.nextPacketNumber + BitVec.ofNat 16 (j + 1) := by
        rw [BitVec.ofNat_add, BitVec.add_assoc, BitVec.add_comm 1#16]
      have hle : (m ≤ s.cfg.maxQueuedPackets - (s.txq.length + 1)) = (m < s.cfg.maxQueuedPackets - s.txq.length) :=
        propext (by omega)
      simp only [List.length_append, List.length_singleton, hmin, List.range_succ_eq_map, List.map_cons, List.map_map]
      apply State.ext <;> simp [hnum, hle, List.append_assoc]
      intro j _ _
      rw [show a + 1 + j = a + (j + 1) by omega]
    · rw [if_neg (mt (txHasRoom_iff s).1 h)]
      simp [show s.cfg.maxQueuedPackets - s.txq.length = 0 by omega]
      rfl

/-- The model's test of the sweep is R190's. -/
theorem pastThreshold_eq_isExpired (c : Config) (now : U32) (x : StreamSlot) : pastThreshold c now x = isExpired c now x := by
  unfold pastThreshold isExpired isActive slotAge
  rw [Bool.eq_iff_iff]
  simp

/-- The loop of R190 over the last slots of a table: each expired one is freed and reported, in order. -/
theorem foldl_sweepSlot (l : List StreamSlot) : ∀ (pre : List StreamSlot) (s : State), s.streams = pre ++ l →
    (List.range' pre.length l.length).foldl sweepSlot s =
      { s with
        streams := pre ++ sweptTable s.cfg s.tick l
        io := { s.io with events := s.io.events ++ timeoutCalls s.cfg s.tick l } } := by
  induction l with
  | nil => intro pre s h; simp [sweptTable, timeoutCalls, ← h]
  | cons x l ih =>
    intro pre s h
    have hx : slotAt s pre.length = x := by simp [slotAt, h]
    rw [List.length_cons, List.range'_succ, List.foldl_cons]
    by_cases hc : isExpired s.cfg s.tick x = true
    · have he : sweepSlot s pre.length =
          { s with
            streams := (pre ++ [{ x with completed := true }]) ++ l
            io := { s.io with events := s.io.events ++ [.complete x.streamId .timeout] } } := by
        simp only [sweepSlot, hx, hc, if_true, raise_streamTimeout]
        apply State.ext <;> simp [hx, h]
      have hi := ih (pre ++ [{ x with completed := true }]) (sweepSlot s pre.length) (by rw [he])
      rw [List.length_append, List.length_singleton] at hi
      rw [hi, he]
      simp [sweptTable, timeoutCalls, pastThreshold_eq_isExpired, hc]
    · have he : sweepSlot s pre.length = s := by simp [sweepSlot, hx, hc]
      have hi := ih (pre ++ [x]) s (by simp [h])
      rw [List.length_append, List.length_singleton] at hi
      rw [he, hi]
      simp [sweptTable, timeoutCalls, pastThreshold_eq_isExpired, hc]

/-- Step (a) of `PROCESS` moves the head of the queue into an empty current slot, or changes nothing. -/
theorem fillCurrent_cases (s : State) :
    (∃ e rest, s.cur = none ∧ s.txq = e :: rest ∧ fillCurrent s = { s with cur := some e, txq := rest }) ∨
      ((s.cur ≠ none ∨ s.txq = []) ∧ fillCurrent s = s) := by
  unfold fillCurrent
  split
  · rename_i e rest hc hq
    exact .inl ⟨e, rest, hc, hq, rfl⟩
  · rename_i h
    refine .inr ⟨?_, rfl⟩
    cases hc : s.cur with
    | some e => exact .inl (by simp)
    | none =>
      cases hq : s.txq with
      | nil => exact .inr rfl
      | cons e rest => exact absurd hq (h e rest hc)

end Sys2Proof.Machine
end

