-- ==== Sys2Proof/Laws/PerInstr.lean ====
section
/-! SUPPORT. The facts proved instruction by instruction: each encoded instruction fits the row of opcode_table.json that
carries its mnemonic. -/

namespace Sys2Proof.Laws.OwnTableRow

/-- With the type codes of R75's table, the encoding of the instruction has the match bits of its row (R83), whatever its
operands. -/
def Statement (i : Instr) : Prop :=
  ∀ c : Config, c.typeCodes = {} → rowMatches (tableRow i) (encode c i) = true

/-- A frame whose type code is the row's: byte 2 of its header carries it (R70). -/
theorem frame_row (c : Config) (t : FrameType) (code : Byte) (pn : U16) (sid : U32) (tf fi : U16) (p : List Byte)
    (h : typeCode c t = code) :
    rowMatches (.frame (framePattern code) frameMask) (.frame (frameBytes c (frameHeader t pn sid tf fi p) p)) = true := by
  have hm : code &&& 255#8 = code := BitVec.and_allOnes
  simp [rowMatches, frameMask, framePattern, frameBytes, sealBytes, headerBytes, frameHeader, bytes16, bytes32, h, hm]

theorem singleData (pn : U16) (sid : U32) (tf fi : U16) (p : List Byte) : Statement (.singleData pn sid tf fi p) :=
  fun c h => frame_row c .singleData 0x00 pn sid tf fi p (by simp [typeCode, h])

theorem fragmentData (pn : U16) (sid : U32) (tf fi : U16) (p : List Byte) : Statement (.fragmentData pn sid tf fi p) :=
  fun c h => frame_row c .fragmentData 0x01 pn sid tf fi p (by simp [typeCode, h])

theorem ack (pn : U16) (sid : U32) (tf fi : U16) (p : List Byte) : Statement (.ack pn sid tf fi p) :=
  fun c h => frame_row c .ack 0x02 pn sid tf fi p (by simp [typeCode, h])

theorem nack (pn : U16) (sid : U32) (tf fi : U16) (p : List Byte) : Statement (.nack pn sid tf fi p) :=
  fun c h => frame_row c .nack 0x03 pn sid tf fi p (by simp [typeCode, h])

theorem singleNoAck (pn : U16) (sid : U32) (tf fi : U16) (p : List Byte) : Statement (.singleNoAck pn sid tf fi p) :=
  fun c h => frame_row c .singleNoAck 0x04 pn sid tf fi p (by simp [typeCode, h])

theorem send (p : List Byte) (mr : U8) (ron : Bool) : Statement (.send p mr ron) := fun _ _ => by simp [rowMatches, tableRow, encode]

theorem sendNoAck (p : List Byte) : Statement (.sendNoAck p) := fun _ _ => by simp [rowMatches, tableRow, encode]

theorem feed (b : Byte) : Statement (.feed b) := fun _ _ => by simp [rowMatches, tableRow, encode]

theorem dataReceived (bs : List Byte) : Statement (.dataReceived bs) := fun _ _ => by simp [rowMatches, tableRow, encode]

theorem process : Statement .process := fun _ _ => by simp [rowMatches, tableRow, encode]

end Sys2Proof.Laws.OwnTableRow
end

