-- ==== Sys2Proof/Tests/Slice0.lean ====
section
/-! SUPPORT. The model's own tests: well-formedness, decoding of words written out from the spec, at most two steps of each
instruction with the results 95_test_vectors.md gives, and for each statement with hypotheses a state that meets them. -/

namespace Sys2Proof.Tests

open Sys2Proof Sys2Proof.Machine

/-! Helpers. -/

/-- The reset state of `CFG64`, with these answers of the collaborators listed. -/
def start (c : Config) (tx deliver : List Bool) : State :=
  { State.resetWith c with io := { txAnswers := tx, deliverAnswers := deliver } }

/-- The next state, if there is one. -/
def after (o : Host.Outcome State Fault Refusal) : Option State :=
  match o with
  | .next t => some t
  | .fault _ => none
  | .refused _ => none

/-- Why the machine refused, if it did. -/
def refusal (o : Host.Outcome State Fault Refusal) : Option Refusal :=
  match o with
  | .next _ => none
  | .fault _ => none
  | .refused r => some r

/-- The calls an instruction makes. -/
def calls (i : Instr) (s : State) : Option (List Event) := (after (exec i s)).map fun t => t.io.events

/-- The queue an instruction leaves, as types and numbers. -/
def queued (i : Instr) (s : State) : Option (List (FrameType × Nat)) :=
  (after (exec i s)).map fun t => t.txq.map fun e => (e.header.type, e.header.packetNumber.toNat)

/-- A queued `SingleData` entry of one byte. -/
def entry (pn : U16) (rc mr : U8) (ron : Bool) : PendingPacket :=
  { header := frameHeader .singleData pn 0 0 0 [0x11], payload := [0x11], retryCount := rc, maxRetries := mr,
    retryOnNack := ron, enqueueTick := 0 }

/-- An active slot. -/
def active (sid : U32) (tf : U16) (last : U32) : StreamSlot :=
  { streamId := sid, totalFragments := tf, lastActivityTick := last, completed := false }

/-- Vector E1. -/
def e1 : List Byte :=
  [0x00, 0x00, 0x00, 0x0A, 0x00, 0, 0, 0, 0, 0, 0, 0, 0, 1, 2, 3, 4, 5, 6, 7, 8, 9, 0x0A, 0xC2, 0xDD]

/-- Vector E2. -/
def e2 : List Byte := [0x01, 0x00, 0x00, 0x00, 0x00, 0, 0, 0, 0, 0, 0, 0, 0, 0x6F, 0x6D]

/-- Vector E3. -/
def e3 : List Byte :=
  [0x02, 0x01, 0x01, 0x04, 0x00, 0xD4, 0xC3, 0xB2, 0xA1, 0x03, 0x00, 0x02, 0x00, 0xDE, 0xAD, 0xBE, 0xEF, 0x9F, 0x06]

/-- Vector E4. -/
def e4 : List Byte := [0, 0, 0x02, 0, 0, 0, 0, 0, 0, 0, 0, 0, 0, 0xBF, 0x88]

/-- Vector E6. -/
def e6 : List Byte := [0, 0, 0x03, 0, 0, 0, 0, 0, 0, 0, 0, 0, 0, 0xF6, 0x50]

/-- Vector E7. -/
def e7 : List Byte := [0x07, 0, 0x04, 0x02, 0, 0, 0, 0, 0, 0, 0, 0, 0, 0x48, 0x69, 0xF9, 0x4C]

/-- Vector E8, the longest frame of `CFG64`. -/
def e8 : List Byte := [0xFF, 0xFF, 0x00, 0x31, 0, 0, 0, 0, 0, 0, 0, 0, 0] ++ List.replicate 49 0xAA ++ [0xF7, 0xA9]

/-- Vector A6: E9 with bit 4 of byte 14 flipped. -/
def a6 : List Byte := [0x21, 0, 0, 0x02, 0, 0, 0, 0, 0, 0, 0, 0, 0, 0x01, 0x12, 0xB2, 0x68]

/-- Vector A7: `Ack(pn=0x21)` with bit 0 of byte 13 flipped. -/
def a7 : List Byte := [0x21, 0, 0x02, 0, 0, 0, 0, 0, 0, 0, 0, 0, 0, 0xB5, 0xE0]

/-- Vector D7: declares 5 payload bytes, carries 3, checksum good. -/
def d7 : List Byte := [0, 0, 0, 0x05, 0, 0, 0, 0, 0, 0, 0, 0, 0, 0, 0, 0, 0xC4, 0x2A]

/-- Vector D8: type 9, checksum good. -/
def d8 : List Byte := [0, 0, 0x09, 0, 0, 0, 0, 0, 0, 0, 0, 0, 0, 0xCB, 0x52]

/-! WellFormed: R72's bound, at its edge and past it. -/

theorem test_wf_refuses_long_singleData : (Instr.singleData 0 0 0 0 (List.replicate 50 0)).wf Config.cfg64 = false := by
  decide
theorem test_wf_refuses_long_fragmentData :
    (Instr.fragmentData 0 0 1 0 (List.replicate 50 0)).wf Config.cfg64 = false := by decide
theorem test_wf_refuses_long_ack : (Instr.ack 0 0 0 0 (List.replicate 50 0)).wf Config.cfg64 = false := by decide
theorem test_wf_refuses_long_nack : (Instr.nack 0 0 0 0 (List.replicate 50 0)).wf Config.cfg64 = false := by decide
theorem test_wf_refuses_long_singleNoAck : (Instr.singleNoAck 0 0 0 0 (List.replicate 50 0)).wf Config.cfg64 = false := by
  decide
theorem test_wf_accepts_longest : (Instr.singleData 0 0 0 0 (List.replicate 49 0)).wf Config.cfg64 = true := by decide

/-! Decoding of written words: R70, R75, R80, vectors 2.2 and 2.3. -/

theorem test_decode_singleData :
    decode Config.cfg64 (.frame e1) = .ok (.singleData 0 0 0 0 [1, 2, 3, 4, 5, 6, 7, 8, 9, 0x0A]) := by decide +kernel
theorem test_decode_singleData_longest :
    decode Config.cfg64 (.frame e8) = .ok (.singleData 0xFFFF 0 0 0 (List.replicate 49 0xAA)) := by decide +kernel
theorem test_decode_fragmentData :
    decode Config.cfg64 (.frame e3) = .ok (.fragmentData 0x0102 0xA1B2C3D4 3 2 [0xDE, 0xAD, 0xBE, 0xEF]) := by
  decide +kernel
theorem test_decode_ack : decode Config.cfg64 (.frame e4) = .ok (.ack 0 0 0 0 []) := by decide +kernel
theorem test_decode_nack : decode Config.cfg64 (.frame e6) = .ok (.nack 0 0 0 0 []) := by decide +kernel
theorem test_decode_singleNoAck :
    decode Config.cfg64 (.frame e7) = .ok (.singleNoAck 7 0 0 0 [0x48, 0x69]) := by decide +kernel
theorem test_decode_send :
    decode Config.cfg64 (.command { tag := 0, bytes := [1, 2], maxRetries := 3, retryOnNack := true }) =
      .ok (.send [1, 2] 3 true) := by decide
theorem test_decode_sendNoAck :
    decode Config.cfg64 (.command { tag := 1, bytes := [0x48, 0x69] }) = .ok (.sendNoAck [0x48, 0x69]) := by decide
theorem test_decode_feed : decode Config.cfg64 (.command { tag := 2, byte := 0x7F }) = .ok (.feed 0x7F) := by decide
theorem test_decode_dataReceived :
    decode Config.cfg64 (.command { tag := 3, bytes := [0xAA, 0x55] }) = .ok (.dataReceived [0xAA, 0x55]) := by decide
theorem test_decode_process : decode Config.cfg64 (.command { tag := 4 }) = .ok .process := by decide

/-- Vectors D2, D3, D4, D5, D6. -/
theorem test_decode_rejects_short_and_corrupt :
    decode Config.cfg64 (.frame []) = .error .frameInvalid ∧
    decode Config.cfg64 (.frame (e4.take 14)) = .error .frameInvalid ∧
    decode Config.cfg64 (.frame (e1.set 13 0x00)) = .error .checksumMismatch ∧
    decode Config.cfg64 (.frame (e1.set 3 0x0B)) = .error .checksumMismatch ∧
    decode Config.cfg64 (.frame (e1.set 24 0x5D)) = .error .checksumMismatch := by decide +kernel

/-- Vectors D7, D8, D9, and a tag outside R80's five. -/
theorem test_decode_rejects_fields :
    decode Config.cfg64 (.frame d7) = .error .frameInvalid ∧
    decode Config.cfg64 (.frame d8) = .error .frameInvalid ∧
    decode Config.cfg35 (.frame e8) = .error .frameInvalid ∧
    decode Config.cfg64 (.command { tag := 5 }) = .error (.illegalCommandTag 5) := by decide +kernel

/-- Vectors E1, E3, E7: the encoder. -/
theorem test_encode :
    encode Config.cfg64 (.singleData 0 0 0 0 [1, 2, 3, 4, 5, 6, 7, 8, 9, 0x0A]) = .frame e1 ∧
    encode Config.cfg64 (.fragmentData 0x0102 0xA1B2C3D4 3 2 [0xDE, 0xAD, 0xBE, 0xEF]) = .frame e3 ∧
    encode Config.cfg64 (.singleNoAck 7 0 0 0 [0x48, 0x69]) = .frame e7 := by decide +kernel

/-- The words of opcode_table.json, by R83: the type code at byte 2, or the tag. -/
theorem test_table_words :
    (List.range 5).map (fun code => decodeTableWord 104 (code <<< 16)) =
      [some (.singleData 0 0 0 0 []), some (.fragmentData 0 0 0 0 []), some (.ack 0 0 0 0 []), some (.nack 0 0 0 0 []),
       some (.singleNoAck 0 0 0 0 [])] ∧
    (List.range 6).map (decodeTableWord 8) =
      [some (.send [] 0 false), some (.sendNoAck []), some (.feed 0), some (.dataReceived []), some .process, none] ∧
    decodeTableWord 104 (5 <<< 16) = none := by decide +kernel

/-- No two rows of the table overlap: those of one format have one mask and different matches. -/
theorem test_table_rows_differ :
    ([tableRow (.singleData 0 0 0 0 []), tableRow (.fragmentData 0 0 0 0 []), tableRow (.ack 0 0 0 0 []),
      tableRow (.nack 0 0 0 0 []), tableRow (.singleNoAck 0 0 0 0 []), tableRow (.send [] 0 false),
      tableRow (.sendNoAck []), tableRow (.feed 0), tableRow (.dataReceived []), tableRow .process] :
        List RowPattern).Nodup := by decide

/-! A step from reset runs the word stored where it fetches. -/

theorem test_step_runs_stored_frame :
    (after (step (State.reset.withFetchWord 104 (0x04 <<< 16)))).map (fun t => (t.rx, t.io.events)) =
      some ([], [.deliver 0 0 0 []]) := by decide +kernel
theorem test_step_runs_stored_command :
    (after (step (State.reset.withFetchWord 8 4))).map (fun t => (t.tick, t.io.commands)) = some (1, []) := by
  decide +kernel

/-! `SingleData`: vectors S-1 and S-2. -/

theorem test_singleData_accepted :
    calls (.singleData 0x21 0 0 0 [1, 2]) (start Config.cfg64 [] [true]) = some [.deliver 0 0 0 [1, 2]] ∧
    queued (.singleData 0x21 0 0 0 [1, 2]) (start Config.cfg64 [] [true]) = some [(.ack, 0x21)] := by decide +kernel
theorem test_singleData_rejected_queue_full :
    queued (.singleData 9 0 0 0 [0x77])
      { start { Config.cfg64 with maxQueuedPackets := 1 } [] [false] with txq := [entry 0 0 0 false] } =
      some [(.singleData, 0)] := by decide +kernel

/-! `FragmentData`: program P5's eviction, and vector F1. -/

theorem test_fragmentData_evicts :
    (after (exec (.fragmentData 3 12 2 0 [0xC0])
      { start Config.cfg64q8 [] [true] with streams := [active 10 3 2, active 11 2 1], tick := 2 })).map
        (fun t => (t.streams, t.io.events)) =
      some ([active 10 3 2, active 12 2 2], [.complete 11 .error, .deliver 12 0 2 [0xC0]]) := by decide +kernel
theorem test_fragmentData_of_one :
    (after (exec (.fragmentData 0 5 1 0 [1]) (start Config.cfg64 [] [true]))).map
        (fun t => (t.streams.head?, t.io.events)) =
      some (some { active 5 1 0 with completed := true }, [.deliver 5 0 1 [1], .complete 5 .success]) := by
  decide +kernel

/-! `Ack`: vectors M7 (the entry in the middle, of stream 1) and M8 (a reply is no match). -/

theorem test_ack_releases_one :
    let s := { start Config.cfg35 [] [] with
      txq := [entry 0 0 2 true, { entry 1 0 2 true with header := frameHeader .fragmentData 1 1 3 1 [0x11] }, entry 2 0 2 true] }
    calls (.ack 1 7 8 9 [0xFF]) s = some [.complete 1 .success] ∧
    queued (.ack 1 7 8 9 [0xFF]) s = some [(.singleData, 0), (.singleData, 2)] := by decide +kernel
theorem test_ack_ignores_replies :
    let s := { start Config.cfg64 [] [] with txq := [replyEntry .ack 0 0] }
    calls (.ack 0 0 0 0 []) s = some [] ∧ queued (.ack 0 0 0 0 []) s = some [(.ack, 0)] := by decide +kernel

/-! `Nack`: vector M10, and the last step of M6. -/

theorem test_nack_requeues_and_drops :
    (after (exec (.nack 5 0 0 0 [])
      { start Config.cfg64 [] [] with txq := [entry 5 0 1 true, entry 6 0 1 true, entry 5 0 0 true], tick := 9 })).map
        (fun t => (t.txq, t.io.events)) =
      some ([entry 6 0 1 true, { entry 5 1 1 true with enqueueTick := 9 }], [.complete 0 .retryExceeded]) := by
  decide +kernel
theorem test_nack_exhausted :
    (after (exec (.nack 0 0 0 0 []) { start Config.cfg64 [] [] with txq := [entry 0 3 3 true] })).map
        (fun t => (t.txq, t.io.events)) = some ([], [.complete 0 .retryExceeded]) := by decide +kernel

/-! `SingleNoAck`: vector S-4. -/

theorem test_singleNoAck_replies_nothing :
    calls (.singleNoAck 7 0 0 0 [0x48, 0x69]) (start Config.cfg64 [] [false]) = some [.deliver 0 0 0 [0x48, 0x69]] ∧
    queued (.singleNoAck 7 0 0 0 [0x48, 0x69]) (start Config.cfg64 [] [false]) = some [] := by decide +kernel

/-! `SEND`: vectors Q7 (no room for the third fragment) and Q12 (the number wraps). -/

theorem test_send_without_room :
    (after (exec (.send (List.replicate 45 0) 1 true) (start Config.cfg35q2 [] []))).map
        (fun t => (t.txq.map fun e => (e.header.fragmentIndex.toNat, e.payload.length), t.nextPacketNumber, t.nextStreamId,
          t.io.returned)) =
      some ([(0, 20), (1, 20)], 2, 2, some { outcome := .bufferFull, streamId := 1, fragmentCount := 3 }) := by
  decide +kernel
theorem test_send_number_wraps :
    (after (exec (.send [1] 0 false) { start Config.cfg64 [] [] with nextPacketNumber := 0xFFFF })).map
        (fun t => (t.txq.map fun e => e.header.packetNumber, t.nextPacketNumber)) = some ([0xFFFF], 0) := by decide +kernel

/-! `SEND_NOACK`: vectors Q10 and Q11. -/

theorem test_sendNoAck_enqueues :
    queued (.sendNoAck [0x48, 0x69]) (start Config.cfg64 [] []) = some [(.singleNoAck, 0)] := by decide +kernel
theorem test_sendNoAck_oversize :
    (after (exec (.sendNoAck (List.replicate 21 0)) (start Config.cfg35 [] []))).map (fun t => (t.txq, t.io.returned)) =
      some ([], some { outcome := .bufferFull, streamId := 0, fragmentCount := 0 }) := by decide +kernel

/-! `FEED`: vector A3, and A11 (an oversize length at the thirteenth byte). -/

theorem test_feed_completes_frame :
    (after (exec (.feed 0x4C) { start Config.cfg64 [] [true] with rx := e7.take 16 })).map (fun t => (t.rx, t.io.events)) =
      some ([], [.deliver 0 0 0 [0x48, 0x69]]) := by decide +kernel
theorem test_feed_drops_oversize :
    (after (exec (.feed 0) { start Config.cfg64 [] [] with rx := (e8.take 12).set 3 0x32 })).map (fun t => t.rx) =
      some (((e8.take 13).set 3 0x32).drop 1) := by decide +kernel

/-! `DATA_RECEIVED`: vectors A4 and A6. -/

theorem test_dataReceived_resynchronises :
    (after (exec (.dataReceived ([0xAA, 0x55] ++ e7)) (start Config.cfg64 [] [true]))).map (fun t => (t.rx, t.io.events)) =
      some ([], [.deliver 0 0 0 [0x48, 0x69]]) := by decide +kernel
theorem test_dataReceived_corrupt_data_frame :
    (after (exec (.dataReceived a6) (start Config.cfg64 [] []))).map
        (fun t => (t.rx, t.io.events, t.txq.map fun e => (e.header.type, e.header.packetNumber))) =
      some ([], [], [(.nack, 0x21)]) := by decide +kernel

/-! `PROCESS`: vectors T3 and the last step of F5 (the age across the wrap of the tick). -/

theorem test_process_failing_transport :
    (after (exec .process { start Config.cfg64 [false] [] with txq := [entry 0 0 0 false] })).map
        (fun t => (t.tick, t.txq, t.cur, t.io.events)) =
      some (1, [], some (entry 0 0 0 false),
        [.tx [0x00, 0x00, 0x00, 0x01, 0, 0, 0, 0, 0, 0, 0, 0, 0, 0x11, 0x33, 0x73]]) := by decide +kernel
theorem test_process_times_out_across_wrap :
    (after (exec .process { start Config.cfg64 [] [] with streams := [active 5 2 0xFFFFFFFE], tick := 1 })).map
        (fun t => (t.tick, t.streams.map fun x => x.completed, t.io.events)) =
      some (2, [true], [.complete 5 .timeout]) := by decide +kernel

/-! Witnesses: for each statement with hypotheses, a state and operands that meet them, each clause at an edge of its
range. -/

/-- A 49-byte payload, the longest of `CFG64`. -/
def longest : List Byte := List.replicate 49 0xAA

/-- The header of vector E8. -/
def longestHeader : Header := frameHeader .singleData 0xFFFF 0 0 0 longest

/-- A state with stream 5 active in slot 1. -/
def joined : State := { start Config.cfg64 [] [] with streams := [StreamSlot.free, active 5 3 0] }

/-- `CFG64` with the smallest `MaxPayload`, 1. -/
def tiny : Config := { Config.cfg64 with maxPacketSize := 16 }

theorem witness_FrameRoundTrip :
    Config.cfg64.Valid ∧ longestHeader.payloadSize.toNat = longest.length ∧ longest.length ≤ Config.cfg64.maxPayload := by
  decide
theorem witness_DecodeReadsBackEncode :
    Config.cfg64.Valid ∧ (Instr.ack 0xFFFF 0xFFFFFFFF 0xFFFF 0xFFFF longest).wf Config.cfg64 = true := by decide
theorem witness_SingleBitFlipIsDetected : 8 * (15 + ([] : List Byte).length) - 1 < 8 * (15 + ([] : List Byte).length) := by
  decide
theorem witness_DecodeChecksInOrder_short : (e4.take 14).length < 15 := by decide
theorem witness_DecodeChecksInOrder_checksum :
    15 ≤ a7.length ∧ crc16 (a7.take (a7.length - 2)) ≠ le16 a7 (a7.length - 2) := by decide +kernel
theorem witness_DecodeChecksInOrder_fields :
    (15 ≤ d7.length ∧ crc16 (d7.take (d7.length - 2)) = le16 d7 (d7.length - 2) ∧ (le16 d7 3).toNat ≠ d7.length - 15) ∧
    (15 ≤ d8.length ∧ crc16 (d8.take (d8.length - 2)) = le16 d8 (d8.length - 2) ∧
      ∀ t ∈ [FrameType.singleData, .fragmentData, .ack, .nack, .singleNoAck], d8.getD 2 0 ≠ typeCode Config.cfg64 t) ∧
    (15 ≤ e8.length ∧ crc16 (e8.take (e8.length - 2)) = le16 e8 (e8.length - 2) ∧
      Config.cfg35.maxPayload < (le16 e8 3).toNat) := by decide +kernel
theorem witness_DecodeChecksInOrder_ok :
    Config.cfg64.typeCodes.Injective ∧ 15 ≤ e8.length ∧ crc16 (e8.take (e8.length - 2)) = le16 e8 (e8.length - 2) ∧
    (le16 e8 3).toNat = e8.length - 15 ∧ (le16 e8 3).toNat ≤ Config.cfg64.maxPayload ∧
    e8.getD 2 0 = typeCode Config.cfg64 .singleData := by decide +kernel
theorem witness_EncodedInstructionFitsItsRowOnly : Config.cfg35.typeCodes = {} := rfl
theorem witness_ScanStepOutcomes_oversize :
    let rx := (e8.take 13).set 3 0x32
    13 ≤ rx.length ∧ Config.cfg64.maxPayload < (le16 rx 3).toNat := by decide
theorem witness_ScanStepOutcomes_good :
    13 ≤ e8.length ∧ (le16 e8 3).toNat ≤ Config.cfg64.maxPayload ∧ 15 + (le16 e8 3).toNat ≤ e8.length ∧
    decodeFrame Config.cfg64 (e8.take (15 + (le16 e8 3).toNat)) = .ok longestHeader longest := by decide +kernel
theorem witness_ScanStepOutcomes_bad :
    (15 + (le16 a6 3).toNat ≤ a6.length ∧
      decodeFrame Config.cfg64 (a6.take (15 + (le16 a6 3).toNat)) = .checksumMismatch ∧
      a6.getD 2 0 = typeCode Config.cfg64 .singleData) ∧
    (15 + (le16 a7 3).toNat ≤ a7.length ∧
      decodeFrame Config.cfg64 (a7.take (15 + (le16 a7 3).toNat)) = .checksumMismatch ∧
      a7.getD 2 0 ≠ typeCode Config.cfg64 .singleData ∧ a7.getD 2 0 ≠ typeCode Config.cfg64 .fragmentData) ∧
    (15 + (le16 d8 3).toNat ≤ d8.length ∧
      decodeFrame Config.cfg64 (d8.take (15 + (le16 d8 3).toNat)) = .frameInvalid) := by decide +kernel
theorem witness_FeedWaitsForWholeFrame :
    ((e7.take 11).length < Config.cfg64.rxBufferSize ∧ (e7.take 11).length + 1 < 13) ∧
    ((e7.take 15).length < Config.cfg64.rxBufferSize ∧ (le16 (e7.take 15 ++ [0xF9]) 3).toNat ≤ Config.cfg64.maxPayload ∧
      (e7.take 15).length + 1 < 15 + (le16 (e7.take 15 ++ [0xF9]) 3).toNat) := by decide
theorem witness_ScanRepeatsUntilItStops :
    (scanStep (start Config.cfg64 [] [])).isNone = true ∧
    (scanStep { start Config.cfg64 [] [] with rx := e4 }).isSome = true := by decide +kernel
theorem witness_ScanLeavesNoWholeCandidate :
    isCommand (.feed 0x4C) = true ∧ Config.cfg64.Valid ∧ { start Config.cfg64 [] [] with rx := e7.take 16 }.RingOk ∧
    (after (exec (.feed 0x4C) { start Config.cfg64 [] [] with rx := e7.take 16 })).isSome = true := by decide +kernel
theorem witness_AlignedFrameIsReceivedWhole :
    Config.cfg64.Valid ∧ (start Config.cfg64 [] []).rx = [] ∧ (Instr.singleData 0xFFFF 0 0 0 longest).wf Config.cfg64 = true ∧
    encode Config.cfg64 (.singleData 0xFFFF 0 0 0 longest) = .frame e8 := by decide +kernel
theorem witness_CorruptDataFrameIsNacked :
    Config.cfg64.Valid ∧ (start Config.cfg64 [] []).rx = [] ∧ longestHeader.payloadSize.toNat = longest.length ∧
    longest.length ≤ Config.cfg64.maxPayload ∧ longestHeader.type = .singleData ∧ 8 * 13 ≤ 104 ∧
    104 < 8 * (15 + longest.length) ∧ 8 * 13 ≤ 511 ∧ 511 < 8 * (15 + longest.length) := by decide
theorem witness_FragmentIndexOutOfRangeIsNacked : (3#16).toNat ≤ (3#16).toNat ∧ (0#16).toNat ≤ (0#16).toNat := by decide
theorem witness_FragmentTotalMismatchIsNacked :
    (1#16).toNat < (4#16).toNat ∧ joined.streams[1]? = some (active 5 3 0) ∧ (active 5 3 0).completed = false ∧
    (active 5 3 0).streamId = 5 ∧ (active 5 3 0).totalFragments ≠ 4 ∧
    ∀ j < 1, ∀ y, joined.streams[j]? = some y → y.completed = false → y.streamId ≠ 5 :=
  ⟨by decide, rfl, rfl, rfl, by decide, fun j hj y hy hc => by
    obtain rfl : j = 0 := by omega
    cases hy
    cases hc⟩
theorem witness_FragmentJoinsItsActiveStream :
    (2#16).toNat < (3#16).toNat ∧ joined.streams[1]? = some (active 5 3 0) ∧ (active 5 3 0).completed = false ∧
    (active 5 3 0).streamId = 5 ∧ (active 5 3 0).totalFragments = 3 ∧
    ∀ j < 1, ∀ y, joined.streams[j]? = some y → y.completed = false → y.streamId ≠ 5 :=
  ⟨by decide, rfl, rfl, rfl, rfl, fun j hj y hy hc => by
    obtain rfl : j = 0 := by omega
    cases hy
    cases hc⟩
theorem witness_FragmentOpensLowestFreeSlot :
    (0#16).toNat < (1#16).toNat ∧ (∀ y ∈ joined.streams, y.completed = false → y.streamId ≠ 6) ∧
    joined.streams[0]? = some StreamSlot.free ∧ StreamSlot.free.completed = true ∧
    ∀ j < 0, ∀ y, joined.streams[j]? = some y → y.completed = false :=
  ⟨by decide, by decide, rfl, rfl, fun j hj => absurd hj (by omega)⟩
/-- Slots 1 and 2 tie at the greatest age. -/
theorem witness_FragmentEvictsLeastRecentlyActive :
    let s : State := { start Config.cfg64 [] [] with streams := [active 10 3 2, active 11 2 1, active 12 2 1], tick := 2 }
    (0#16).toNat < (2#16).toNat ∧ (∀ y ∈ s.streams, y.completed = false ∧ y.streamId ≠ 13) ∧
    s.streams[1]? = some (active 11 2 1) ∧
    (∀ y ∈ s.streams, (s.tick - y.lastActivityTick).toNat ≤ (s.tick - (active 11 2 1).lastActivityTick).toNat) ∧
    (∀ j < 1, ∀ y, s.streams[j]? = some y →
      (s.tick - y.lastActivityTick).toNat < (s.tick - (active 11 2 1).lastActivityTick).toNat) :=
  ⟨by decide, by decide, rfl, by decide, fun j hj y hy => by
    obtain rfl : j = 0 := by omega
    cases hy
    decide⟩
theorem witness_SecondAckHasNoEffect :
    (∀ e ∈ [replyEntry .ack 0 0, entry 1 0 0 false], e.header.packetNumber = 0 →
      e.header.type ≠ .singleData ∧ e.header.type ≠ .fragmentData) ∧
    (after (exec (.ack 0 0 0 0 []) { start Config.cfg64 [] [] with txq := [entry 0 0 3 true] })).isSome = true := by decide
theorem witness_ReplyIsQueuedOrDropped :
    (List.replicate 3 (entry 0 0 0 false)).length < Config.cfg64.maxQueuedPackets ∧
    Config.cfg64.maxQueuedPackets ≤ (List.replicate 4 (entry 0 0 0 false)).length := by decide
theorem witness_SendOfOnePacket :
    longest.length ≤ Config.cfg64.maxPayload ∧
    (List.replicate 3 (entry 0 0 0 false)).length < Config.cfg64.maxQueuedPackets ∧
    Config.cfg64.maxQueuedPackets ≤ (List.replicate 4 (entry 0 0 0 false)).length := by decide
/-- 65536 and 65535 one-byte fragments. -/
theorem witness_SendOfFragments :
    (start tiny [] []).txq.length ≤ tiny.maxQueuedPackets ∧
    (tiny.maxPayload < (List.replicate 65536 (0 : Byte)).length ∧
      65535 < fragmentCount tiny (List.replicate 65536 (0 : Byte)).length) ∧
    (tiny.maxPayload < (List.replicate 65535 (0 : Byte)).length ∧
      fragmentCount tiny (List.replicate 65535 (0 : Byte)).length ≤ 65535) := by
  simp only [List.length_replicate]
  decide
theorem witness_FragmentationIsComplete :
    Config.cfg35.Valid ∧ Config.cfg35.maxPayload < (List.replicate 45 (0 : Byte)).length ∧
    (after (exec (.send (List.replicate 45 0) 2 true) (start Config.cfg35 [] []))).bind
      (fun t => t.io.returned.map fun r => r.outcome) = some .success := by decide +kernel
theorem witness_SendNoAckOutcomes :
    (longest.length ≤ Config.cfg64.maxPayload ∧
      (List.replicate 3 (entry 0 0 0 false)).length < Config.cfg64.maxQueuedPackets) ∧
    Config.cfg64.maxPayload < (longest ++ [0]).length ∧
    Config.cfg64.maxQueuedPackets ≤ (List.replicate 4 (entry 0 0 0 false)).length := by decide
theorem witness_ProcessWithNothingToSend : (start Config.cfg64 [] []).cur = none ∧ (start Config.cfg64 [] []).txq = [] :=
  ⟨rfl, rfl⟩
theorem witness_ProcessOffersOnePacket :
    ({ start Config.cfg64 [] [] with cur := some (entry 0 0 0 false) }.cur = some (entry 0 0 0 false)) ∧
    ({ start Config.cfg64 [] [] with txq := [entry 0 0 0 false] }.cur = none ∧
      { start Config.cfg64 [] [] with txq := [entry 0 0 0 false] }.txq = entry 0 0 0 false :: []) ∧
    (entry 0 0 0 false).header.payloadSize.toNat = (entry 0 0 0 false).payload.length ∧
    (entry 0 0 0 false).payload.length ≤ Config.cfg64.maxPayload := by decide
theorem witness_ProcessRefusesUnencodablePacket :
    { entry 0 0 0 false with payload := [] }.header.payloadSize.toNat ≠ ({ entry 0 0 0 false with payload := [] }.payload).length ∧
    Config.cfg64.maxPayload < { entry 0 0 0 false with payload := longest ++ [0] }.payload.length := by decide
theorem witness_FailingTransportIsOfferedAgain :
    let s : State := { start Config.cfg64 [false, false, true] [] with cur := some (entry 0 0 0 false) }
    s.cur = some (entry 0 0 0 false) ∧ PacketOk s.cfg (entry 0 0 0 false) ∧ 2 ≤ s.io.txAnswers.length ∧
    ∀ a ∈ s.io.txAnswers.take 2, a = false := by decide
/-- `CFG64`: three calls stay within the threshold 3, the fourth goes past it. -/
theorem witness_StreamTimesOutPastThreshold :
    let s : State := { start Config.cfg64 [] [] with streams := [active 5 2 0, StreamSlot.free] }
    s.Inv ∧ s.streams[0]? = some (active 5 2 0) ∧ (active 5 2 0).completed = false ∧
    (s.tick - (active 5 2 0).lastActivityTick).toNat + 3 ≤ s.cfg.streamTimeoutTicks ∧
    s.cfg.streamTimeoutTicks < (s.tick - (active 5 2 0).lastActivityTick).toNat + 4 := by decide
/-- From the current slot, and from the queue's head; behind it waits a reply of the same number. -/
theorem witness_AckAfterHandOffFindsNothing :
    let e := entry 0 0 0 false
    let s : State := { start Config.cfg64 [true] [] with cur := some e, txq := [replyEntry .ack 0 0] }
    let s' : State := { start Config.cfg64 [true] [] with txq := [e, replyEntry .ack 0 0] }
    (s.cur = some e ∧ s.txq = [replyEntry .ack 0 0]) ∧ (s'.cur = none ∧ s'.txq = e :: [replyEntry .ack 0 0]) ∧
    PacketOk s.cfg e ∧ txAnswer s = true ∧ txAnswer s' = true ∧
    ∀ x ∈ [replyEntry .ack 0 0], x.header.packetNumber = e.header.packetNumber →
      x.header.type ≠ .singleData ∧ x.header.type ≠ .fragmentData := by
  decide
theorem witness_ConstructionRefusesInvalidConfigurations :
    { Config.cfg64 with maxPacketSize := 16 }.Valid ∧ ¬ { Config.cfg64 with maxPacketSize := 15 }.Valid ∧
    { Config.cfg64 with rxBufferSize := 64 }.Valid ∧ ¬ { Config.cfg64 with rxBufferSize := 63 }.Valid := by decide
theorem witness_ResetSatisfiesInvariants : Config.cfg35q2.Valid := by decide
theorem witness_EveryInstructionRunsAndKeepsInvariants :
    State.reset.Inv ∧ (Instr.fragmentData 0 5 2 0 longest).wf State.reset.cfg = true := by decide
theorem witness_EveryStepKeepsInvariants :
    { State.reset with io := { commands := [{ tag := 4 }] } }.Inv ∧
    (after (step { State.reset with io := { commands := [{ tag := 4 }] } })).isSome = true := by decide +kernel
theorem witness_StepRunsTheNextCommand :
    let s : State := { State.reset with io := { commands := [{ tag := 2, byte := 7 }] } }
    s.RingOk ∧ s.io.commands = { tag := 2, byte := 7 } :: [] ∧
    decode s.cfg (.command { tag := 2, byte := 7 }) = .ok (.feed 7) := by decide
theorem witness_StepRunsTheFrameAtTheRingHead :
    let s : State := { State.reset with rx := e7 ++ [1, 2] }
    s.cfg.Valid ∧ (Instr.singleNoAck 7 0 0 0 [0x48, 0x69]).wf s.cfg = true ∧
    encode s.cfg (.singleNoAck 7 0 0 0 [0x48, 0x69]) = .frame e7 ∧ s.rx = e7 ++ [1, 2] := by decide +kernel
theorem witness_StepIdlesWithoutCommands : State.reset.RingOk ∧ State.reset.io.commands = [] := by decide
theorem witness_IllegalTagIsRefused :
    let s : State := { State.reset with io := { commands := [{ tag := 5 }] } }
    s.RingOk ∧ s.io.commands = { tag := 5 } :: [] ∧ 4 < ({ tag := 5 } : CommandWord).tag.toNat := by decide
theorem witness_TickAdvancesInProcessOnly :
    (after (exec .process { State.reset with tick := 0xFFFFFFFF })).isSome = true ∧
    (after (exec (.feed 0) State.reset)).isSome = true := by decide +kernel
theorem witness_PacketNumbersCountEnqueuedEntries :
    (after (exec (.ack 0 0 0 0 []) State.reset)).isSome = true ∧
    (after (exec (.send longest 0 false) { State.reset with nextPacketNumber := 0xFFFF })).isSome = true ∧
    (after (exec (.sendNoAck longest) State.reset)).isSome = true := by decide +kernel
theorem witness_StreamIdsAdvanceInFragmentedSendOnly :
    (after (exec (.send (longest ++ [0]) 0 false) { State.reset with nextStreamId := 0xFFFFFFFF })).isSome = true ∧
    State.reset.nextStreamId ≠ 0 := by decide +kernel
theorem witness_CommandsKeepToTheirEffects :
    (after (exec (.send [] 0 false) State.reset)).isSome = true ∧ (after (exec (.feed 0) State.reset)).isSome = true ∧
    (after (exec .process State.reset)).isSome = true := by decide +kernel
theorem witness_ConfigurationIsConstant : (after (step State.reset)).isSome = true := by decide +kernel
theorem witness_EnqueueTickIsNeverRead :
    (after (exec (.nack 0 0 0 0 []) { State.reset with txq := [{ entry 0 0 1 true with enqueueTick := 5 }] })).isSome = true := by
  decide +kernel
theorem witness_FreeSlotFieldsAreNeverRead :
    (after (exec (.fragmentData 0 5 2 0 [])
      { State.reset with streams := [{ active 5 7 9 with completed := true }, active 6 2 0] })).isSome = true := by decide +kernel

end Sys2Proof.Tests
end

section
/-! PROOF. A step at the command port: what `fetch` answers where the ring waits (R15, R80). -/

namespace Sys2Proof.Machine

/-- Decoding a stored command is reading its tag (R80): the configuration has no part in it. -/
@[simp] theorem decode_command (c : Config) (w : CommandWord) : decode c (.command w) = decodeCommand w := rfl

/-- Where the ring waits, the next instruction is the port's (R124, log 8). -/
theorem fetch_of_ringOk {s : State} (hr : s.RingOk) : fetch s = fetchCommand s := by
  simp only [fetch, show candidate s.cfg s.rx = .wait from hr]

/-- A legal command at the head of the port is run with its word taken. -/
theorem fetchCommand_of_decodeCommand {s : State} {w : CommandWord} {rest : List CommandWord} {i : Instr}
    (hc : s.io.commands = w :: rest) (hd : decodeCommand w = .ok i) :
    fetchCommand s = .run i { s with io := { s.io with commands := rest } } := by
  simp only [fetchCommand, hc, hd]

/-- A step that finds an instruction is `exec` of it. -/
theorem step_of_fetch_run {s s1 : State} {i : Instr} (hf : fetch s = .run i s1) : step s = exec i s1 := by
  simp only [step, hf]

end Sys2Proof.Machine

namespace Sys2Proof.Proofs

open Sys2Proof.Machine

/-- Settles O44: the waiting ring sends `fetch` to the port, whose head decodes to the instruction. -/
theorem stepRunsTheNextCommand : Obligations.StepRunsTheNextCommand := by
  intro s w rest i hr hc hd
  have hf : fetch s = .run i { s with io := { s.io with commands := rest } } :=
    (fetch_of_ringOk hr).trans (fetchCommand_of_decodeCommand hc (by simpa using hd))
  exact step_of_fetch_run hf

end Sys2Proof.Proofs
end

section
/-! PROOF. The four kinds of instruction, and the frame of the inbound ones: what the reception of bytes may write. -/

namespace Sys2Proof.Machine

/-! The kinds of instruction. -/

/-- The inbound instructions: the reception of one frame (R132), and the two commands that feed bytes (R121, R122). -/
def Inbound (i : Instr) : Prop :=
  (∃ h p, i = instrOfFrame h p) ∨ (∃ b, i = .feed b) ∨ (∃ bs, i = .dataReceived bs)

/-- An instruction is inbound, one of the two sends, or `PROCESS`. -/
theorem instr_cases (i : Instr) :
    Inbound i ∨ (∃ p mr ron, i = .send p mr ron) ∨ (∃ p, i = .sendNoAck p) ∨ i = .process := by
  cases i with
  | singleData pn sid tf fi p => exact .inl (.inl ⟨frameHeader .singleData pn sid tf fi p, p, rfl⟩)
  | fragmentData pn sid tf fi p => exact .inl (.inl ⟨frameHeader .fragmentData pn sid tf fi p, p, rfl⟩)
  | ack pn sid tf fi p => exact .inl (.inl ⟨frameHeader .ack pn sid tf fi p, p, rfl⟩)
  | nack pn sid tf fi p => exact .inl (.inl ⟨frameHeader .nack pn sid tf fi p, p, rfl⟩)
  | singleNoAck pn sid tf fi p => exact .inl (.inl ⟨frameHeader .singleNoAck pn sid tf fi p, p, rfl⟩)
  | send p mr ron => exact .inr (.inl ⟨p, mr, ron, rfl⟩)
  | sendNoAck p => exact .inr (.inr (.inl ⟨p, rfl⟩))
  | feed b => exact .inl (.inr (.inl ⟨b, rfl⟩))
  | dataReceived bs => exact .inl (.inr (.inr ⟨bs, rfl⟩))
  | process => exact .inr (.inr (.inr rfl))

theorem Inbound.ne_process {i : Instr} (hi : Inbound i) : i ≠ .process := by
  rcases hi with ⟨h, p, rfl⟩ | ⟨b, rfl⟩ | ⟨bs, rfl⟩
  · unfold instrOfFrame
    cases h.type <;> simp
  · simp
  · simp

/-! The meanings of the commands. -/

theorem exec_feed (b : Byte) (s : State) : exec (.feed b) s = .next (returnToHost none (feedByte b s)) := rfl
theorem exec_dataReceived (bs : List Byte) (s : State) :
    exec (.dataReceived bs) s = .next (returnToHost none (feedBytes bs s)) := rfl
theorem exec_send (p : List Byte) (mr : U8) (ron : Bool) (s : State) :
    exec (.send p mr ron) s = .next (sendData p mr ron s) := rfl
theorem exec_sendNoAck (p : List Byte) (s : State) : exec (.sendNoAck p) s = .next (sendUnacknowledged p s) := rfl
theorem exec_process (s : State) : exec .process s = execProcess s := rfl

/-! What a property must be kept by to be kept by the feeding of bytes. -/

/-- A step of the scan drops bytes without a reply, receives a frame whose bytes it took, or answers a bad one with a
`Nack` (R125 to R128). In each case it takes a byte or more. -/
theorem scanStep_cases {s t : State} (h : scanStep s = some t) :
    ∃ n, 0 < n ∧ 0 < s.rx.length ∧
      (t = rxConsume n s ∨ (∃ hd p, t = dispatchFrame hd p (rxConsume n s)) ∨
        ∃ pn, t = reply .nack pn (rxConsume n s)) := by
  have hw : candidate s.cfg s.rx ≠ .wait := by
    intro hw
    simp [scanStep, hw] at h
  have hpos : 0 < s.rx.length := by
    rw [Ne, candidate_wait_iff] at hw
    omega
  unfold scanStep at h
  cases hc : candidate s.cfg s.rx with
  | wait => exact absurd hc hw
  | oversize =>
    rw [hc] at h; cases h
    exact ⟨1, by omega, hpos, .inl rfl⟩
  | good n hd p =>
    rw [hc] at h; cases h
    exact ⟨n, by have := candidate_good _ _ _ _ _ hc; omega, hpos, .inr (.inl ⟨hd, p, rfl⟩)⟩
  | badData n pn =>
    rw [hc] at h; cases h
    exact ⟨n, by have := candidate_badData _ _ _ _ hc; omega, hpos, .inr (.inr ⟨pn, rfl⟩)⟩
  | badOther =>
    rw [hc] at h; cases h
    exact ⟨1, by omega, hpos, .inl rfl⟩
  | invalid =>
    rw [hc] at h; cases h
    exact ⟨1, by omega, hpos, .inl rfl⟩

/-- The scan stops exactly where the ring waits (R124). -/
theorem scanStep_eq_none_iff (s : State) : scanStep s = none ↔ s.RingOk := by
  unfold scanStep
  cases hc : candidate s.cfg s.rx <;> simp [State.RingOk, hc]

/-- What every step of the scan keeps, the scan keeps (R123). -/
theorem scanLoop_induction {P : State → Prop} (hstep : ∀ s t, P s → scanStep s = some t → P t) (n : Nat) :
    ∀ s, P s → P (scanLoop n s) := by
  induction n with
  | zero => exact fun s hs => hs
  | succ n ih =>
    intro s hs
    unfold scanLoop
    split
    · exact hs
    · rename_i t ht
      exact ih t (hstep s t hs ht)

/-- What `RxAppend` and every step of the scan keep, the feeding of bytes keeps (R121, R122). -/
theorem feedBytes_induction {P : State → Prop} (happend : ∀ b s, P s → P (rxAppend b s))
    (hstep : ∀ s t, P s → scanStep s = some t → P t) (bs : List Byte) : ∀ s, P s → P (feedBytes bs s) := by
  induction bs with
  | nil => exact fun s hs => hs
  | cons b bs ih => exact fun s hs => ih _ (scanLoop_induction hstep _ _ (happend b s hs))

theorem feedByte_eq_feedBytes (b : Byte) (s : State) : feedByte b s = feedBytes [b] s := rfl

/-! The frame of an inbound instruction: the frame of a reception, but for the ring. -/

/-- `t` differs from `s` only in the ring and where the reception of a frame may write. -/
abbrev InboundFrame (s t : State) : Prop := ReceptionFrame { s with rx := t.rx } t

theorem InboundFrame.trans {s t u : State} (h : InboundFrame s t) (g : InboundFrame t u) : InboundFrame s u :=
  ReceptionFrame.trans (t := { t with rx := u.rx })
    ⟨h.cfg, rfl, h.cur, h.nextPacketNumber, h.nextStreamId, h.tick, h.slots, h.commands, h.calls⟩ g

theorem ReceptionFrame.inbound {s t : State} (h : ReceptionFrame s t) : InboundFrame s t :=
  ⟨h.cfg, rfl, h.cur, h.nextPacketNumber, h.nextStreamId, h.tick, h.slots, h.commands, h.calls⟩

theorem rxConsume_inboundFrame (n : Nat) (s : State) : InboundFrame s (rxConsume n s) := ReceptionFrame.refl _

theorem rxAppend_inboundFrame (b : Byte) (s : State) : InboundFrame s (rxAppend b s) := by
  rw [rxAppend_eq]
  exact ReceptionFrame.refl _

theorem scanStep_inboundFrame {s t : State} (h : scanStep s = some t) : InboundFrame s t := by
  obtain ⟨n, -, -, rfl | ⟨hd, p, rfl⟩ | ⟨pn, rfl⟩⟩ := scanStep_cases h
  · exact rxConsume_inboundFrame n s
  · exact (rxConsume_inboundFrame n s).trans (dispatchFrame_frame hd p _).inbound
  · exact (rxConsume_inboundFrame n s).trans (reply_frame .nack pn _).inbound

theorem feedBytes_inboundFrame (bs : List Byte) (s : State) : InboundFrame s (feedBytes bs s) :=
  feedBytes_induction (P := InboundFrame s) (fun b _ h => h.trans (rxAppend_inboundFrame b _))
    (fun _ _ h ht => h.trans (scanStep_inboundFrame ht)) bs s (ReceptionFrame.refl s)

theorem returnToHost_inboundFrame (r : Option SendResult) (s : State) : InboundFrame s (returnToHost r s) :=
  ⟨rfl, rfl, rfl, rfl, rfl, rfl, rfl, rfl, [], by simp, by simp⟩

/-- Every inbound instruction keeps to that frame. -/
theorem exec_inboundFrame {i : Instr} {s t : State} (hi : Inbound i) (h : exec i s = .next t) : InboundFrame s t := by
  rcases hi with ⟨hd, p, rfl⟩ | ⟨b, rfl⟩ | ⟨bs, rfl⟩
  · rw [exec_instrOfFrame] at h; cases h
    exact (dispatchFrame_frame hd p s).inbound
  · rw [exec_feed, feedByte_eq_feedBytes] at h; cases h
    exact (feedBytes_inboundFrame [b] s).trans (returnToHost_inboundFrame none _)
  · rw [exec_dataReceived] at h; cases h
    exact (feedBytes_inboundFrame bs s).trans (returnToHost_inboundFrame none _)

/-! The ring after the feeding of bytes (R131). -/

/-- The scan's loop ends in a ring that waits, if its bound is the ring's length or more (R123). -/
theorem scanLoop_ringOk (n : Nat) : ∀ s : State, s.rx.length ≤ n → (scanLoop n s).RingOk := by
  induction n with
  | zero =>
    intro s hs
    exact (candidate_wait_iff _ _).2 (.inl (by rw [scanLoop]; omega))
  | succ n ih =>
    intro s hs
    unfold scanLoop
    split
    · rename_i hn
      exact (scanStep_eq_none_iff s).1 hn
    · rename_i t ht
      refine ih t ?_
      have hlt : t.rx.length < s.rx.length := by
        obtain ⟨n, hn, hpos, rfl | ⟨hd, p, rfl⟩ | ⟨pn, rfl⟩⟩ := scanStep_cases ht
        · simp; omega
        · rw [(dispatchFrame_frame hd p _).rx]; simp; omega
        · simp; omega
      omega

theorem feedByte_ringOk (b : Byte) (s : State) : (feedByte b s).RingOk := scanLoop_ringOk _ _ le_rfl

theorem feedBytes_ringOk (bs : List Byte) : ∀ s : State, s.RingOk → (feedBytes bs s).RingOk := by
  induction bs with
  | nil => exact fun s hs => hs
  | cons b bs ih => exact fun s _ => ih _ (feedByte_ringOk b s)

/-- Whether the ring waits depends on its bytes and the configuration alone. -/
theorem ringOk_of_eq {s t : State} (h : s.RingOk) (hc : t.cfg = s.cfg) (hr : t.rx = s.rx) : t.RingOk := by
  unfold State.RingOk
  rw [hc, hr]
  exact h

/-- Every inbound instruction leaves a ring that waits (R131). -/
theorem exec_inbound_ringOk {i : Instr} {s t : State} (hi : Inbound i) (hs : s.RingOk) (h : exec i s = .next t) :
    t.RingOk := by
  rcases hi with ⟨hd, p, rfl⟩ | ⟨b, rfl⟩ | ⟨bs, rfl⟩
  · rw [exec_instrOfFrame] at h; cases h
    have hf := dispatchFrame_frame hd p s
    exact ringOk_of_eq hs hf.cfg hf.rx
  · rw [exec_feed] at h; cases h
    exact feedByte_ringOk b s
  · rw [exec_dataReceived] at h; cases h
    exact feedBytes_ringOk bs s hs

end Sys2Proof.Machine
end

section
/-! PROOF. What the outbound commands do: the entries a send appends, and the next state of `PROCESS`. -/

namespace Sys2Proof.Machine

/-! The packets the block builds meet R29. -/

/-- A payload of at most `MaxPayload` bytes has a length its size field can hold (R8). -/
theorem payload_length_lt {c : Config} (hc : c.Valid) {p : List Byte} (hp : p.length ≤ c.maxPayload) :
    p.length < 2 ^ 16 := by
  have hmax : c.maxPacketSize ≤ 65550 := hc.2.1
  rw [maxPayload_eq] at hp
  omega

/-- The entry of a data packet (R151) meets R29, where a packet that is not eligible has no retries. -/
theorem dataEntry_packetOk {c : Config} (hc : c.Valid) (t : FrameType) (pn : U16) {p : List Byte}
    (hp : p.length ≤ c.maxPayload) (sid : U32) (tf fi : U16) (mr : U8) (ron : Bool) (now : U32)
    (hr : t = .singleData ∨ t = .fragmentData ∨ (mr = 0 ∧ ron = false)) :
    PacketOk c (dataEntry t pn p sid tf fi mr ron now) := by
  refine ⟨?_, BitVec.le_def.2 (Nat.zero_le _), fun he => ?_⟩
  · have hlen := Nat.mod_eq_of_lt (payload_length_lt hc hp)
    simpa [encodable, dataEntry, frameHeader, hp] using hlen
  · rcases hr with rfl | rfl | hr
    · cases he
    · cases he
    · exact hr

/-- The entry of a reply (R166) meets R29. -/
theorem replyEntry_packetOk (c : Config) (t : ReplyType) (pn : U16) (now : U32) : PacketOk c (replyEntry t pn now) :=
  ⟨by simp [encodable, replyEntry], BitVec.le_refl _, fun _ => ⟨rfl, rfl⟩⟩

/-- A fragment is at most `MaxPayload` bytes (R154). -/
theorem fragment_length_le (c : Config) (p : List Byte) (i : Nat) : (fragment c p i).length ≤ c.maxPayload :=
  List.length_take_le _ _

/-! The two sends. -/

/-- `t` is `s` with the entries `es` appended to the queue by `EnqueueData` (R151), and a result returned: their numbers go
up by one from `nextPacketNumber` on, they fit the queue, and each meets R29. -/
structure Enqueued (s : State) (es : List PendingPacket) (t : State) : Prop where
  state : ∃ r, t = { s with
    txq := s.txq ++ es
    nextPacketNumber := s.nextPacketNumber + BitVec.ofNat 16 es.length
    io := { s.io with returned := r } }
  numbers : ∀ (n : Nat) (e : PendingPacket), es[n]? = some e →
    e.header.packetNumber = s.nextPacketNumber + BitVec.ofNat 16 n
  room : s.txq.length ≤ s.cfg.maxQueuedPackets → s.txq.length + es.length ≤ s.cfg.maxQueuedPackets
  packets : s.cfg.Valid → ∀ e ∈ es, PacketOk s.cfg e

/-- A send that returns without having enqueued anything. -/
theorem enqueued_nil (r : Option SendResult) (s : State) : Enqueued s [] (returnToHost r s) :=
  ⟨⟨r, by simp [returnToHost]⟩, by simp, by simp, by simp⟩

section
variable {s t : State} {es : List PendingPacket}

theorem Enqueued.cfg (h : Enqueued s es t) : t.cfg = s.cfg := by obtain ⟨r, rfl⟩ := h.state; rfl
theorem Enqueued.rx (h : Enqueued s es t) : t.rx = s.rx := by obtain ⟨r, rfl⟩ := h.state; rfl
theorem Enqueued.txq (h : Enqueued s es t) : t.txq = s.txq ++ es := by obtain ⟨r, rfl⟩ := h.state; rfl
theorem Enqueued.cur (h : Enqueued s es t) : t.cur = s.cur := by obtain ⟨r, rfl⟩ := h.state; rfl
theorem Enqueued.streams (h : Enqueued s es t) : t.streams = s.streams := by obtain ⟨r, rfl⟩ := h.state; rfl
theorem Enqueued.nextPacketNumber (h : Enqueued s es t) :
    t.nextPacketNumber = s.nextPacketNumber + BitVec.ofNat 16 es.length := by obtain ⟨r, rfl⟩ := h.state; rfl
theorem Enqueued.nextStreamId (h : Enqueued s es t) : t.nextStreamId = s.nextStreamId := by
  obtain ⟨r, rfl⟩ := h.state; rfl
theorem Enqueued.tick (h : Enqueued s es t) : t.tick = s.tick := by obtain ⟨r, rfl⟩ := h.state; rfl

end

/-- An entry before those of a longer send: the later ones are numbered from the advanced number on. -/
theorem Enqueued.cons {t : FrameType} {p : List Byte} {sid : U32} {tf fi : U16} {mr : U8} {ron : Bool} {s u : State}
    {es : List PendingPacket} (hroom : txHasRoom s = true) (hp : p.length ≤ s.cfg.maxPayload)
    (hr : t = .singleData ∨ t = .fragmentData ∨ (mr = 0 ∧ ron = false))
    (h : Enqueued (enqueueData t p sid tf fi mr ron s) es u) :
    Enqueued s (dataEntry t s.nextPacketNumber p sid tf fi mr ron s.tick :: es) u := by
  obtain ⟨⟨r, rfl⟩, hnum, hfit, hok⟩ := h
  have hnext (n : Nat) : s.nextPacketNumber + 1#16 + BitVec.ofNat 16 n = s.nextPacketNumber + BitVec.ofNat 16 (n + 1) := by
    rw [BitVec.ofNat_add, BitVec.add_assoc, BitVec.add_comm 1#16]
  simp only [enqueueData_nextPacketNumber, enqueueData_txq, enqueueData_cfg, hroom, if_true, List.length_append,
    List.length_singleton] at hnum hfit hok
  have hlt := (txHasRoom_iff s).1 hroom
  refine ⟨⟨r, ?_⟩, fun n e he => ?_, fun _ => ?_, fun hc e he => ?_⟩
  · apply State.ext <;> simp [hroom, hnext]
  · cases n with
    | zero =>
      cases he
      simp [dataEntry, frameHeader]
    | succ n => exact (hnum n e he).trans (hnext n)
  · have := hfit hlt
    simp only [List.length_cons]
    omega
  · rcases List.mem_cons.1 he with rfl | he
    · exact dataEntry_packetOk hc t _ hp sid tf fi mr ron _ hr
    · exact hok hc e he

/-- One packet of a non-fragmented send (R153, R156) enqueues one entry or none. -/
theorem sendOne_enqueued {t : FrameType} {p : List Byte} {mr : U8} {ron : Bool} {s : State}
    (hp : p.length ≤ s.cfg.maxPayload) (hr : t = .singleData ∨ t = .fragmentData ∨ (mr = 0 ∧ ron = false)) :
    ∃ es, Enqueued s es (sendOne t p mr ron s) := by
  unfold sendOne
  split
  · rename_i hroom
    exact ⟨_, (enqueued_nil _ _).cons hroom hp hr⟩
  · exact ⟨[], enqueued_nil _ s⟩

/-- The loop of R154 enqueues an entry for each index until one finds no room. -/
theorem sendFragments_enqueued (p : List Byte) (sid : U32) (n : U16) (mr : U8) (ron : Bool) (is : List Nat) :
    ∀ s : State, ∃ es, Enqueued s es (sendFragments p sid n mr ron is s) := by
  induction is with
  | nil => exact fun s => ⟨[], enqueued_nil _ s⟩
  | cons i is ih =>
    intro s
    unfold sendFragments
    split
    · rename_i hroom
      obtain ⟨es, hes⟩ := ih (enqueueData .fragmentData (fragment s.cfg p i) sid n (BitVec.ofNat 16 i) mr ron s)
      exact ⟨_, hes.cons hroom (fragment_length_le _ _ _) (.inr (.inl rfl))⟩
    · exact ⟨[], enqueued_nil _ s⟩

/-- `SEND` enqueues entries (R152), and takes a stream id only for a payload of more than one packet (R154). -/
theorem sendData_enqueued (p : List Byte) (mr : U8) (ron : Bool) (s : State) :
    (∃ es, Enqueued s es (sendData p mr ron s)) ∨
      (s.cfg.maxPayload < p.length ∧ ∃ es, Enqueued (takeStreamId s) es (sendData p mr ron s)) := by
  unfold sendData
  split
  · rename_i hp
    exact .inl (sendOne_enqueued hp (.inl rfl))
  · rename_i hp
    unfold sendFragmented
    dsimp only
    split
    · exact .inl ⟨[], enqueued_nil _ s⟩
    · exact .inr ⟨by omega, sendFragments_enqueued _ _ _ _ _ _ _⟩

/-- `SEND_NOACK` enqueues one entry or none (R156). -/
theorem sendUnacknowledged_enqueued (p : List Byte) (s : State) : ∃ es, Enqueued s es (sendUnacknowledged p s) := by
  unfold sendUnacknowledged
  split
  · rename_i hp
    exact sendOne_enqueued hp (.inr (.inr ⟨rfl, rfl⟩))
  · exact ⟨[], enqueued_nil _ s⟩

/-- The successor of a stream id is never 0 (R23). -/
theorem nextStreamIdAfter_ne_zero (sid : U32) : nextStreamIdAfter sid ≠ 0 := by
  unfold nextStreamIdAfter
  split <;> bv_omega

/-! `PROCESS`. -/

/-- The sweep (R190) frees the slots past the threshold and reports them; nothing else changes. -/
theorem sweepTimeouts_eq (s : State) :
    sweepTimeouts s =
      { s with
        streams := sweptTable s.cfg s.tick s.streams
        io := { s.io with events := s.io.events ++ timeoutCalls s.cfg s.tick s.streams } } := by
  have h := foldl_sweepSlot s.streams [] s rfl
  simpa [sweepTimeouts, List.range_eq_range'] using h

/-- What a `PROCESS` that completes leaves (R160): the ring and the counters as they were, the tick one on, the table swept
at that tick, and no packet that was not in the queue or the current slot before. -/
structure ProcessFrame (s t : State) : Prop where
  cfg : t.cfg = s.cfg
  rx : t.rx = s.rx
  nextPacketNumber : t.nextPacketNumber = s.nextPacketNumber
  nextStreamId : t.nextStreamId = s.nextStreamId
  tick : t.tick = s.tick + 1
  streams : t.streams = sweptTable s.cfg (s.tick + 1) s.streams
  queue : t.txq <:+ s.txq
  current : ∀ e ∈ t.cur, e ∈ s.cur ∨ e ∈ s.txq

theorem finishProcess_frame {s u : State} (hcfg : u.cfg = s.cfg) (hrx : u.rx = s.rx)
    (hpn : u.nextPacketNumber = s.nextPacketNumber) (hsid : u.nextStreamId = s.nextStreamId)
    (htick : u.tick = s.tick + 1) (hstreams : u.streams = s.streams) (hq : u.txq <:+ s.txq)
    (hcur : ∀ e ∈ u.cur, e ∈ s.cur ∨ e ∈ s.txq) : ProcessFrame s (finishProcess u) := by
  rw [finishProcess, sweepTimeouts_eq]
  exact ⟨hcfg, hrx, hpn, hsid, htick, by simp [hcfg, htick, hstreams], hq, hcur⟩

/-- Step (a) of `PROCESS` (R161) moves packets only. -/
theorem fillCurrent_frame (s : State) :
    ∃ q c, fillCurrent s = { s with txq := q, cur := c } ∧ q <:+ s.txq ∧ ∀ e ∈ c, e ∈ s.cur ∨ e ∈ s.txq := by
  rcases fillCurrent_cases s with ⟨e, rest, -, hq, hf⟩ | ⟨-, hf⟩
  · refine ⟨rest, some e, hf, ⟨[e], by simp [hq]⟩, fun x hx => .inr ?_⟩
    cases hx
    simp [hq]
  · exact ⟨s.txq, s.cur, hf, List.suffix_refl _, fun e he => .inl he⟩

theorem exec_process_frame {s t : State} (h : exec .process s = .next t) : ProcessFrame s t := by
  obtain ⟨q, c, hf, hq, hc⟩ := fillCurrent_frame (advanceTick s)
  rw [exec_process, execProcess, hf] at h
  dsimp only at h
  split at h
  · cases h
    exact finishProcess_frame rfl rfl rfl rfl rfl rfl hq hc
  · split at h
    · cases h
      refine finishProcess_frame (by simp) (by simp) (by simp) (by simp) (by simp) (by simp) (by simpa using hq)
        fun e he => hc e ?_
      rw [handOff_cur] at he
      split at he
      · cases he
      · exact he
    · cases h

end Sys2Proof.Machine
end

section
/-! PROOF. What the instructions leave of the tick, the counters and the configuration (R22, R23, R24, R27). -/

namespace Sys2Proof.Machine

/-- The configuration is kept by every instruction (R27). -/
theorem exec_cfg {i : Instr} {s t : State} (h : exec i s = .next t) : t.cfg = s.cfg := by
  rcases instr_cases i with hi | ⟨p, mr, ron, rfl⟩ | ⟨p, rfl⟩ | rfl
  · exact (exec_inboundFrame hi h).cfg
  · cases h
    rcases sendData_enqueued p mr ron s with ⟨es, he⟩ | ⟨-, es, he⟩
    · exact he.cfg
    · exact he.cfg
  · cases h
    obtain ⟨es, he⟩ := sendUnacknowledged_enqueued p s
    exact he.cfg
  · exact (exec_process_frame h).cfg

/-- A step goes to the port where the ring waits, runs the frame at the ring's head, or recovers from what is there. -/
theorem fetch_cases (s : State) :
    (fetch s = fetchCommand s ∧ s.RingOk) ∨ (∃ n h p, fetch s = .run (instrOfFrame h p) (rxConsume n s)) ∨
      (∃ t, fetch s = .recovered t ∧ scanStep s = some t) := by
  unfold fetch State.RingOk
  cases hc : candidate s.cfg s.rx with
  | wait => exact .inl ⟨rfl, rfl⟩
  | good n h p => exact .inr (.inl ⟨n, h, p, rfl⟩)
  | oversize => exact .inr (.inr ⟨rxConsume 1 s, by simp [scanStep, hc], by simp [scanStep, hc]⟩)
  | badData n pn => exact .inr (.inr ⟨reply .nack pn (rxConsume n s), by simp [scanStep, hc], by simp [scanStep, hc]⟩)
  | badOther => exact .inr (.inr ⟨rxConsume 1 s, by simp [scanStep, hc], by simp [scanStep, hc]⟩)
  | invalid => exact .inr (.inr ⟨rxConsume 1 s, by simp [scanStep, hc], by simp [scanStep, hc]⟩)

/-- The port is empty, its head is run with its word taken, or its head is no command (R80). -/
theorem fetchCommand_cases (s : State) :
    fetchCommand s = .idle ∨
      (∃ i rest, fetchCommand s = .run i { s with io := { s.io with commands := rest } }) ∨
      (∃ tag, fetchCommand s = .illegalTag tag) := by
  unfold fetchCommand
  split
  · exact .inl rfl
  · split
    · exact .inr (.inl ⟨_, _, rfl⟩)
    · exact .inr (.inr ⟨_, rfl⟩)

/-- A step that answers a next state idles or runs a command where the ring waits, and else runs the frame at the ring's
head or recovers from what is there (log 8). -/
theorem step_cases {s t : State} (h : step s = .next t) :
    (s.RingOk ∧ (t = s ∨ ∃ i rest, exec i { s with io := { s.io with commands := rest } } = .next t)) ∨
      (∃ n hd p, exec (instrOfFrame hd p) (rxConsume n s) = .next t) ∨ scanStep s = some t := by
  unfold step at h
  rcases fetch_cases s with ⟨hf, hr⟩ | ⟨n, hd, p, hf⟩ | ⟨u, hf, hu⟩
  · rcases fetchCommand_cases s with hc | ⟨i, rest, hc⟩ | ⟨tag, hc⟩ <;> rw [hf, hc] at h
    · cases h
      exact .inl ⟨hr, .inl rfl⟩
    · exact .inl ⟨hr, .inr ⟨i, rest, h⟩⟩
    · cases h
  · rw [hf] at h
    exact .inr (.inl ⟨n, hd, p, h⟩)
  · rw [hf] at h
    cases h
    exact .inr (.inr hu)

end Sys2Proof.Machine

namespace Sys2Proof.Proofs

open Sys2Proof.Machine

/-- Settles O48: the frames of the inbound instructions and of the sends hold the tick; `PROCESS` moves it on. -/
theorem tickAdvancesInProcessOnly : Obligations.TickAdvancesInProcessOnly := by
  intro i s t h
  rcases instr_cases i with hi | ⟨p, mr, ron, rfl⟩ | ⟨p, rfl⟩ | rfl
  · rw [if_neg hi.ne_process]
    exact (exec_inboundFrame hi h).tick
  · cases h
    rw [if_neg (by simp)]
    rcases sendData_enqueued p mr ron s with ⟨es, he⟩ | ⟨-, es, he⟩
    · exact he.tick
    · exact he.tick
  · cases h
    rw [if_neg (by simp)]
    obtain ⟨es, he⟩ := sendUnacknowledged_enqueued p s
    exact he.tick
  · rw [if_pos rfl]
    exact (exec_process_frame h).tick

/-- Settles O49: what a send enqueues is numbered from `nextPacketNumber` on, a stream id taken or not; the frames of the
other instructions hold the number. -/
theorem packetNumbersCountEnqueuedEntries : Obligations.PacketNumbersCountEnqueuedEntries := by
  refine ⟨fun i s t h hsend hsendNoAck => ?_, fun p mr ron s t h => ?_⟩
  · rcases instr_cases i with hi | ⟨p, mr, ron, rfl⟩ | ⟨p, rfl⟩ | rfl
    · exact (exec_inboundFrame hi h).nextPacketNumber
    · exact absurd rfl (hsend p mr ron)
    · exact absurd rfl (hsendNoAck p)
    · exact (exec_process_frame h).nextPacketNumber
  · rcases h with h | h <;> cases h
    · rcases sendData_enqueued p mr ron s with ⟨es, he⟩ | ⟨-, es, he⟩
      · exact ⟨es, he.txq, he.nextPacketNumber, he.numbers⟩
      · exact ⟨es, he.txq, he.nextPacketNumber, he.numbers⟩
    · obtain ⟨es, he⟩ := sendUnacknowledged_enqueued p s
      exact ⟨es, he.txq, he.nextPacketNumber, he.numbers⟩

/-- Settles O50: only a `SEND` of more than one packet takes a stream id, and no successor of one is 0. -/
theorem streamIdsAdvanceInFragmentedSendOnly : Obligations.StreamIdsAdvanceInFragmentedSendOnly := by
  intro i s t h
  have hid : t.nextStreamId = s.nextStreamId ∨
      ((∃ p mr ron, i = .send p mr ron ∧ s.cfg.maxPayload < p.length) ∧
        t.nextStreamId = nextStreamIdAfter s.nextStreamId) := by
    rcases instr_cases i with hi | ⟨p, mr, ron, rfl⟩ | ⟨p, rfl⟩ | rfl
    · exact .inl (exec_inboundFrame hi h).nextStreamId
    · cases h
      rcases sendData_enqueued p mr ron s with ⟨es, he⟩ | ⟨hp, es, he⟩
      · exact .inl he.nextStreamId
      · exact .inr ⟨⟨p, mr, ron, rfl, hp⟩, he.nextStreamId⟩
    · cases h
      obtain ⟨es, he⟩ := sendUnacknowledged_enqueued p s
      exact .inl he.nextStreamId
    · exact .inl (exec_process_frame h).nextStreamId
  refine ⟨hid, fun h0 => ?_⟩
  rcases hid with hk | ⟨-, hk⟩ <;> rw [hk]
  · exact h0
  · exact nextStreamIdAfter_ne_zero _

/-- Settles O52: every way a step can answer keeps the configuration. -/
theorem configurationIsConstant : Obligations.ConfigurationIsConstant := by
  intro s t h
  rcases step_cases h with ⟨-, rfl | ⟨i, rest, he⟩⟩ | ⟨n, hd, p, he⟩ | hs
  · rfl
  · exact (exec_cfg he :)
  · exact (exec_cfg he :)
  · exact (scanStep_inboundFrame hs).cfg

end Sys2Proof.Proofs
end

section
/-! PROOF. The invariants of the queue and of the stream table, operation by operation. -/

namespace Sys2Proof.Machine

/-! The table (R32, R33, R182). -/

/-- No two active slots hold one id: the statement on the list of ids, slot by slot. -/
theorem activeIds_nodup_iff (xs : List StreamSlot) :
    ((xs.filter isActive).map fun x => x.streamId).Nodup ↔
      xs.Pairwise fun x y => isActive x = true → isActive y = true → x.streamId ≠ y.streamId := by
  rw [List.Nodup, List.pairwise_map, List.pairwise_filter]

/-- Active slots of one id are one slot. -/
theorem eq_of_active_streamId {xs : List StreamSlot} (h : ((xs.filter isActive).map fun x => x.streamId).Nodup)
    {j k : Nat} {x y : StreamSlot} (hj : xs[j]? = some x) (hk : xs[k]? = some y) (hx : isActive x = true)
    (hy : isActive y = true) (hid : x.streamId = y.streamId) : j = k := by
  rw [activeIds_nodup_iff, List.pairwise_iff_getElem] at h
  obtain ⟨hjl, rfl⟩ := List.getElem?_eq_some_iff.1 hj
  obtain ⟨hkl, rfl⟩ := List.getElem?_eq_some_iff.1 hk
  rcases lt_trichotomy j k with hlt | rfl | hlt
  · exact absurd hid (h j k hjl hkl hlt hx hy)
  · rfl
  · exact absurd hid.symm (h k j hkl hjl hlt hy hx)

/-- Writing slot `k` keeps the table's invariants, if the slot written is free, or meets R181 and R190 and shares its id
with no other active slot. -/
theorem setSlot_tableOk {s : State} {k : Nat} {x : StreamSlot} (h : s.TableOk) (hx : SlotOk s.cfg s.tick x)
    (hid : isActive x = true → ∀ j y, j ≠ k → s.streams[j]? = some y → isActive y = true → y.streamId ≠ x.streamId) :
    (setSlot k x s).TableOk := by
  obtain ⟨hlen, hslots, hids⟩ := h
  refine ⟨by simpa using hlen, fun y hy => ?_, ?_⟩
  · rcases List.mem_or_eq_of_mem_set hy with hy | rfl
    · exact hslots y hy
    · exact hx
  · rw [activeIds_nodup_iff, List.pairwise_iff_getElem] at hids ⊢
    intro i j hi hj hij hai haj
    simp only [setSlot_streams, List.length_set] at hi hj
    simp only [setSlot_streams] at hai haj ⊢
    rcases eq_or_ne k i with rfl | hki
    · rw [List.getElem_set_self] at hai ⊢
      rw [List.getElem_set_ne (by omega)] at haj ⊢
      exact (hid hai j _ (by omega) (List.getElem?_eq_getElem hj) haj).symm
    · rw [List.getElem_set_ne hki] at hai ⊢
      rcases eq_or_ne k j with rfl | hkj
      · rw [List.getElem_set_self] at haj ⊢
        exact hid haj i _ hki.symm (List.getElem?_eq_getElem hi) hai
      · rw [List.getElem_set_ne hkj] at haj ⊢
        exact hids i j hi hj hij hai haj

/-- A free slot meets R181 and R190, which speak of active ones. -/
theorem completed_slotOk (c : Config) (now : U32) (x : StreamSlot) : SlotOk c now { x with completed := true } :=
  fun ha => by cases ha

theorem completeSlot_tableOk {s : State} (h : s.TableOk) (k : Nat) : (completeSlot k s).TableOk :=
  setSlot_tableOk h (completed_slotOk _ _ _) fun ha => by cases ha

/-- A slot outside the table reads as free, so an active one is a slot of the table. -/
theorem getElem?_of_isActive_slotAt {s : State} {k : Nat} (h : isActive (slotAt s k) = true) :
    s.streams[k]? = some (slotAt s k) := by
  unfold slotAt at h ⊢
  cases hk : s.streams[k]? with
  | none => simp [List.getD, hk, isActive, StreamSlot.free] at h
  | some x => simp [List.getD, hk]

/-- At the tick it was written a slot is within every threshold. -/
theorem slotAge_le_of_eq_now {now : U32} {x : StreamSlot} (h : x.lastActivityTick = now) (n : Nat) : slotAge now x ≤ n := by
  simp [slotAge, h]

theorem refreshSlot_tableOk {s : State} (h : s.TableOk) (k : Nat) : (refreshSlot k s).TableOk := by
  refine setSlot_tableOk h (fun ha => ?_) fun ha j y hjk hy hay hid => hjk ?_
  · obtain ⟨htf, -⟩ := h.2.1 _ (List.mem_of_getElem? (getElem?_of_isActive_slotAt ha)) ha
    exact ⟨htf, slotAge_le_of_eq_now rfl _⟩
  · exact eq_of_active_streamId h.2.2 hy (getElem?_of_isActive_slotAt ha) hay ha hid

/-- A lookup fails only where no active slot holds the stream (R182). -/
theorem streamId_ne_of_lookupStream_eq_none {sid : U32} {s : State} (h : lookupStream sid s = none) {x : StreamSlot}
    (hx : x ∈ s.streams) (ha : isActive x = true) : x.streamId ≠ sid := by
  have := List.findIdx?_eq_none_iff.1 h x hx
  simpa [holdsStream, ha] using this

/-- Writing a fresh slot for a stream that no slot holds (R183). -/
theorem setSlot_freshSlot_tableOk {s : State} {sid : U32} {tf : U16} (h : s.TableOk) (htf : 0 < tf)
    (hn : ∀ x ∈ s.streams, isActive x = true → x.streamId ≠ sid) (k : Nat) :
    (setSlot k (freshSlot sid tf s.tick) s).TableOk :=
  setSlot_tableOk h (fun _ => ⟨htf, slotAge_le_of_eq_now rfl _⟩)
    fun _ _ y _ hy ha => hn y (List.mem_of_getElem? hy) ha

theorem openStream_tableOk {s : State} {sid : U32} {tf : U16} (h : s.TableOk) (htf : 0 < tf) :
    (openStream sid tf s).TableOk := by
  unfold openStream
  split
  · exact h
  · rename_i hl
    have hn : ∀ x ∈ s.streams, isActive x = true → x.streamId ≠ sid :=
      fun x hx ha => streamId_ne_of_lookupStream_eq_none hl hx ha
    unfold allocateStream
    split
    · exact setSlot_freshSlot_tableOk h htf hn _
    · have hc : (raise (.streamEvicted (victimSlot s.tick s.streams)) s).TableOk := completeSlot_tableOk h _
      refine setSlot_freshSlot_tableOk hc htf (fun x hx ha => ?_) _
      rcases List.mem_or_eq_of_mem_set hx with hx | rfl
      · exact hn x hx ha
      · cases ha

theorem reply_tableOk {s : State} (h : s.TableOk) (t : ReplyType) (pn : U16) : (reply t pn s).TableOk := by
  rw [reply_eq]
  exact h

theorem deliverFragment_tableOk {s : State} (h : s.TableOk) (k : Nat) (pn : U16) (sid : U32) (tf fi : U16)
    (p : List Byte) : (deliverFragment k pn sid tf fi p s).TableOk := by
  have hd : (callDeliver sid fi tf p (refreshSlot k s)).TableOk := refreshSlot_tableOk h k
  unfold deliverFragment
  dsimp only
  split
  · split
    · exact completeSlot_tableOk (reply_tableOk hd _ _) k
    · exact reply_tableOk hd _ _
  · exact completeSlot_tableOk (reply_tableOk hd _ _) k

/-- The reception of a fragment keeps the table's invariants: the total it records is above the index (R181). -/
theorem receiveFragment_tableOk {s : State} (h : s.TableOk) (pn : U16) (sid : U32) (tf fi : U16) (p : List Byte) :
    (receiveFragment pn sid tf fi p s).TableOk := by
  unfold receiveFragment
  split
  · rename_i hfi
    have ho : (openStream sid tf s).TableOk := openStream_tableOk h (by bv_omega)
    dsimp only
    split
    · exact deliverFragment_tableOk ho _ _ _ _ _ _
    · exact reply_tableOk ho _ _
  · exact reply_tableOk h _ _

/-- The sweep at any tick leaves a table whose active slots are within the threshold (R190): the ids are as before, and no
slot becomes active. -/
theorem sweptTable_ok {c : Config} {now : U32} {xs : List StreamSlot}
    (hpos : ∀ x ∈ xs, isActive x = true → 0 < x.totalFragments)
    (hids : ((xs.filter isActive).map fun x => x.streamId).Nodup) :
    (∀ x ∈ sweptTable c now xs, SlotOk c now x) ∧
      (((sweptTable c now xs).filter isActive).map fun x => x.streamId).Nodup := by
  refine ⟨fun y hy ha => ?_, ?_⟩
  · obtain ⟨x, hx, rfl⟩ := List.mem_map.1 hy
    split at ha
    · cases ha
    · rename_i hp
      rw [if_neg hp]
      refine ⟨hpos x hx ha, ?_⟩
      rw [pastThreshold_eq_isExpired, isExpired, ha] at hp
      simpa using hp
  · rw [activeIds_nodup_iff] at hids ⊢
    rw [sweptTable, List.pairwise_map]
    refine hids.imp fun {x y} hxy hx hy => ?_
    split at hx
    · cases hx
    · split at hy
      · cases hy
      · rename_i hpx hpy
        rw [if_neg hpx, if_neg hpy]
        exact hxy hx hy

/-! The queue (R28, R29). -/

theorem reply_queueOk {s : State} (h : s.QueueOk) (t : ReplyType) (pn : U16) : (reply t pn s).QueueOk := by
  obtain ⟨hlen, hok⟩ := h
  rcases reply_cases t pn s with ⟨hroom, hr⟩ | ⟨-, hr⟩ <;> rw [hr]
  · refine ⟨by simp; omega, fun e he => ?_⟩
    rcases List.mem_append.1 he with he | he
    · exact hok e he
    · rw [List.mem_singleton.1 he]
      exact replyEntry_packetOk _ _ _ _
  · exact ⟨hlen, hok⟩

/-- A re-enqueued entry had budget for one more retry (R203). -/
theorem retried_packetOk {c : Config} {e : PendingPacket} (h : PacketOk c e) (hb : hasBudget e = true) (now : U32) :
    PacketOk c (retried now e) := by
  obtain ⟨henc, -, hel⟩ := h
  simp only [hasBudget, Bool.and_eq_true, decide_eq_true_eq] at hb
  refine ⟨henc, ?_, hel⟩
  have hlt := hb.2
  simp only [retried]
  bv_omega

/-- The entries a test takes, narrowed by another, and those it leaves are together no more than all. -/
theorem length_filter_not_add_le (f g : PendingPacket → Bool) (l : List PendingPacket) :
    (l.filter fun e => !f e).length + (l.filter fun e => f e && g e).length ≤ l.length := by
  have hsplit := List.length_eq_length_filter_add (l := l) f
  have hnarrow : (l.filter fun e => f e && g e).length ≤ (l.filter f).length :=
    (List.monotone_filter_right l fun e he => (Bool.and_eq_true_iff.1 he).1).length_le
  omega

theorem onAckOrNack_queueOk {s : State} (h : s.QueueOk) (isNack : Bool) (pn : U16) :
    (onAckOrNack isNack pn s).QueueOk := by
  obtain ⟨hlen, hok⟩ := h
  cases isNack with
  | false =>
    rw [onAckOrNack, matchEntries_ack]
    refine ⟨?_, fun e he => hok e ?_⟩
    · have := List.length_filter_le (fun e => !answers pn e) s.txq
      simp only [List.nil_append, List.append_nil]
      omega
    · simp only [List.nil_append, List.append_nil] at he
      exact (List.mem_filter.1 he).1
  | true =>
    rw [onAckOrNack, matchEntries_nack]
    refine ⟨?_, fun e he => ?_⟩
    · have := length_filter_not_add_le (answers pn) hasBudget s.txq
      simp only [List.nil_append, List.length_append, List.length_map]
      omega
    · simp only [List.nil_append] at he
      rcases List.mem_append.1 he with he | he
      · exact hok e (List.mem_filter.1 he).1
      · obtain ⟨e', he', rfl⟩ := List.mem_map.1 he
        obtain ⟨hmem, hb⟩ := List.mem_filter.1 he'
        exact retried_packetOk (hok e' hmem) (Bool.and_eq_true_iff.1 hb).2 _

/-- The entries of a send fit the queue and meet R29. -/
theorem Enqueued.queueOk {s t : State} {es : List PendingPacket} (h : Enqueued s es t) (hc : s.cfg.Valid)
    (hq : s.QueueOk) : t.QueueOk := by
  obtain ⟨hlen, hok⟩ := hq
  unfold State.QueueOk
  rw [h.txq, h.cfg]
  refine ⟨?_, fun e he => ?_⟩
  · rw [List.length_append]
    exact h.room hlen
  · rcases List.mem_append.1 he with he | he
    · exact hok e he
    · exact h.packets hc e he

end Sys2Proof.Machine
end

section
/-! PROOF. The invariants of 10_state.md: reset meets them, and every instruction and every step keeps them. -/

namespace Sys2Proof.Machine

/-- The invariants but for the ring's: what holds in the middle of a scan too. -/
structure State.Sound (s : State) : Prop where
  valid : s.cfg.Valid
  queue : s.QueueOk
  current : s.CurrentOk
  table : s.TableOk
  streamId : s.nextStreamId ≠ 0

theorem inv_iff (s : State) : s.Inv ↔ s.RingOk ∧ s.Sound := by
  constructor
  · rintro ⟨hv, hr, hq, hc, ht, hn⟩
    exact ⟨hr, hv, hq, hc, ht, hn⟩
  · rintro ⟨hr, hv, hq, hc, ht, hn⟩
    exact ⟨hv, hr, hq, hc, ht, hn⟩

/-- The ring and the host's side have no part in these. -/
theorem State.Sound.of_ring_io {s : State} (h : s.Sound) (rx : List Byte) (io : HostSide) :
    { s with rx := rx, io := io }.Sound :=
  ⟨h.valid, h.queue, h.current, h.table, h.streamId⟩

/-- The reception of a frame keeps them where it keeps the queue's and the table's: it writes nothing else they speak of. -/
theorem ReceptionFrame.sound {s t : State} (hf : ReceptionFrame s t) (h : s.Sound) (hq : t.QueueOk) (ht : t.TableOk) :
    t.Sound := by
  refine ⟨hf.cfg ▸ h.valid, hq, ?_, ht, hf.nextStreamId ▸ h.streamId⟩
  unfold State.CurrentOk
  rw [hf.cur, hf.cfg]
  exact h.current

theorem reply_sound {s : State} (h : s.Sound) (t : ReplyType) (pn : U16) : (reply t pn s).Sound :=
  (reply_frame t pn s).sound h (reply_queueOk h.queue t pn) (reply_tableOk h.table t pn)

theorem callDeliver_sound {s : State} (h : s.Sound) (sid : U32) (fi tf : U16) (p : List Byte) :
    (callDeliver sid fi tf p s).Sound :=
  h.of_ring_io _ _

theorem rxConsume_sound {s : State} (h : s.Sound) (n : Nat) : (rxConsume n s).Sound := h.of_ring_io _ _

theorem rxAppend_sound {s : State} (h : s.Sound) (b : Byte) : (rxAppend b s).Sound := by
  rw [rxAppend_eq]
  exact h.of_ring_io _ _

theorem returnToHost_sound {s : State} (h : s.Sound) (r : Option SendResult) : (returnToHost r s).Sound := h.of_ring_io _ _

theorem onAckOrNack_sound {s : State} (h : s.Sound) (isNack : Bool) (pn : U16) : (onAckOrNack isNack pn s).Sound := by
  refine (matchEntries_frame isNack pn _ _ _ s).sound h (onAckOrNack_queueOk h.queue isNack pn) ?_
  cases isNack with
  | false => rw [matchEntries_ack]; exact h.table
  | true => rw [matchEntries_nack]; exact h.table

/-! The queue over the reception of a fragment: nothing but a reply writes it. -/

theorem openStream_txq (sid : U32) (tf : U16) (s : State) : (openStream sid tf s).txq = s.txq := by
  unfold openStream allocateStream
  split
  · rfl
  · split <;> rfl

theorem openStream_sound {s : State} (h : s.Sound) {sid : U32} {tf : U16} (htf : 0 < tf) : (openStream sid tf s).Sound := by
  have hf := openStream_frame sid tf s
  refine hf.sound h ?_ (openStream_tableOk h.table htf)
  unfold State.QueueOk
  rw [openStream_txq, hf.cfg]
  exact h.queue

theorem deliverFragment_queueOk {s : State} (h : s.QueueOk) (k : Nat) (pn : U16) (sid : U32) (tf fi : U16)
    (p : List Byte) : (deliverFragment k pn sid tf fi p s).QueueOk := by
  have hr (t : ReplyType) : (reply t pn (callDeliver sid fi tf p (refreshSlot k s))).QueueOk :=
    reply_queueOk (s := callDeliver sid fi tf p (refreshSlot k s)) h t pn
  unfold deliverFragment
  dsimp only
  split
  · split
    · exact hr .ack
    · exact hr .ack
  · exact hr .nack

theorem receiveFragment_sound {s : State} (h : s.Sound) (pn : U16) (sid : U32) (tf fi : U16) (p : List Byte) :
    (receiveFragment pn sid tf fi p s).Sound := by
  unfold receiveFragment
  split
  · rename_i hfi
    have ho : (openStream sid tf s).Sound := openStream_sound h (by bv_omega)
    dsimp only
    split
    · exact (deliverFragment_frame _ _ _ _ _ _ _).sound ho (deliverFragment_queueOk ho.queue _ _ _ _ _ _)
        (deliverFragment_tableOk ho.table _ _ _ _ _ _)
    · exact reply_sound ho _ _
  · exact reply_sound h _ _

/-- The reception of any frame keeps the invariants but for the ring's (R132). -/
theorem dispatchFrame_sound {s : State} (h : s.Sound) (hd : Header) (p : List Byte) : (dispatchFrame hd p s).Sound := by
  unfold dispatchFrame
  cases hd.type with
  | singleData => exact reply_sound (callDeliver_sound h _ _ _ _) _ _
  | singleNoAck => exact callDeliver_sound h _ _ _ _
  | fragmentData => exact receiveFragment_sound h _ _ _ _ _
  | ack => exact onAckOrNack_sound h false _
  | nack => exact onAckOrNack_sound h true _

theorem scanStep_sound {s t : State} (h : s.Sound) (ht : scanStep s = some t) : t.Sound := by
  obtain ⟨n, -, -, rfl | ⟨hd, p, rfl⟩ | ⟨pn, rfl⟩⟩ := scanStep_cases ht
  · exact rxConsume_sound h n
  · exact dispatchFrame_sound (rxConsume_sound h n) hd p
  · exact reply_sound (rxConsume_sound h n) _ _

theorem feedBytes_sound {s : State} (h : s.Sound) (bs : List Byte) : (feedBytes bs s).Sound :=
  feedBytes_induction (fun b _ h => rxAppend_sound h b) (fun _ _ h ht => scanStep_sound h ht) bs s h

theorem exec_inbound_sound {i : Instr} {s t : State} (hi : Inbound i) (hs : s.Sound) (h : exec i s = .next t) :
    t.Sound := by
  rcases hi with ⟨hd, p, rfl⟩ | ⟨b, rfl⟩ | ⟨bs, rfl⟩
  · rw [exec_instrOfFrame] at h; cases h
    exact dispatchFrame_sound hs hd p
  · rw [exec_feed, feedByte_eq_feedBytes] at h; cases h
    exact returnToHost_sound (feedBytes_sound hs [b]) none
  · rw [exec_dataReceived] at h; cases h
    exact returnToHost_sound (feedBytes_sound hs bs) none

/-- A send keeps the invariants, from the state it enqueues in. -/
theorem Enqueued.inv {s t : State} {es : List PendingPacket} (he : Enqueued s es t) (h : s.Inv) : t.Inv := by
  rw [inv_iff] at h ⊢
  obtain ⟨hr, hs⟩ := h
  have hq := he.queueOk hs.valid hs.queue
  obtain ⟨r, rfl⟩ := he.state
  exact ⟨hr, hs.valid, hq, hs.current, hs.table, hs.streamId⟩

/-- Taking a stream id keeps the invariants: no successor is 0 (R23). -/
theorem takeStreamId_inv {s : State} (h : s.Inv) : (takeStreamId s).Inv := by
  rw [inv_iff] at h ⊢
  obtain ⟨hr, hs⟩ := h
  exact ⟨hr, hs.valid, hs.queue, hs.current, hs.table, nextStreamIdAfter_ne_zero _⟩

/-- `PROCESS` keeps the invariants: the sweep at the new tick frees what has grown too old (R190). -/
theorem ProcessFrame.inv {s t : State} (hf : ProcessFrame s t) (h : s.Inv) : t.Inv := by
  rw [inv_iff] at h ⊢
  obtain ⟨hr, hs⟩ := h
  obtain ⟨hqlen, hqok⟩ := hs.queue
  obtain ⟨htlen, htok, hids⟩ := hs.table
  obtain ⟨hslots, hids'⟩ := sweptTable_ok (c := s.cfg) (now := s.tick + 1) (fun x hx ha => (htok x hx ha).1) hids
  refine ⟨ringOk_of_eq hr hf.cfg hf.rx, hf.cfg ▸ hs.valid, ?_, ?_, ?_, hf.nextStreamId ▸ hs.streamId⟩
  · unfold State.QueueOk
    rw [hf.cfg]
    exact ⟨hf.queue.length_le.trans hqlen, fun e he => hqok e (hf.queue.subset he)⟩
  · unfold State.CurrentOk
    rw [hf.cfg]
    exact fun e he => (hf.current e he).elim (hs.current e) (hqok e)
  · unfold State.TableOk
    rw [hf.cfg, hf.tick, hf.streams]
    exact ⟨by rw [sweptTable, List.length_map]; exact htlen, hslots, hids'⟩

/-- Every instruction keeps the invariants where it answers a next state. -/
theorem exec_inv {i : Instr} {s t : State} (hs : s.Inv) (h : exec i s = .next t) : t.Inv := by
  rcases instr_cases i with hi | ⟨p, mr, ron, rfl⟩ | ⟨p, rfl⟩ | rfl
  · rw [inv_iff] at hs ⊢
    exact ⟨exec_inbound_ringOk hi hs.1 h, exec_inbound_sound hi hs.2 h⟩
  · cases h
    rcases sendData_enqueued p mr ron s with ⟨es, he⟩ | ⟨-, es, he⟩
    · exact he.inv hs
    · exact he.inv (takeStreamId_inv hs)
  · cases h
    obtain ⟨es, he⟩ := sendUnacknowledged_enqueued p s
    exact he.inv hs
  · exact (exec_process_frame h).inv hs

/-- The reset state of a valid configuration meets the invariants: everything is empty and every slot free. -/
theorem resetWith_inv {c : Config} (hc : c.Valid) : (State.resetWith c).Inv := by
  have hfree : ∀ x ∈ (State.resetWith c).streams, isActive x = false := fun x hx => by
    rw [List.eq_of_mem_replicate hx]
    rfl
  have hactive : (State.resetWith c).streams.filter isActive = [] :=
    List.filter_eq_nil_iff.2 fun x hx => by simp [hfree x hx]
  have hring : (State.resetWith c).RingOk := (candidate_wait_iff _ _).2 (.inl (by simp [State.resetWith]))
  refine (inv_iff _).2 ⟨hring, hc, ⟨Nat.zero_le _, ?_⟩, ?_, ⟨?_, ?_, ?_⟩, ?_⟩
  · exact fun e he => absurd he List.not_mem_nil
  · exact fun e he => by cases he
  · exact List.length_replicate
  · exact fun x hx ha => absurd ha (by simp [hfree x hx])
  · rw [hactive]
    exact List.nodup_nil
  · exact (by decide : (1 : U32) ≠ 0)

end Sys2Proof.Machine

namespace Sys2Proof.Proofs

open Sys2Proof.Machine

/-- Settles O43: where the ring waits a step idles or runs a command, and every instruction keeps the invariants; the two
other ways of a step need a ring that does not wait. -/
theorem everyStepKeepsInvariants : Obligations.EveryStepKeepsInvariants := by
  intro s t hs h
  have hr : s.RingOk := ((inv_iff s).1 hs).1
  unfold step at h
  rw [fetch_of_ringOk hr] at h
  rcases fetchCommand_cases s with hc | ⟨i, rest, hc⟩ | ⟨tag, hc⟩ <;> rw [hc] at h <;> dsimp only at h
  · cases h
    exact hs
  · exact exec_inv (s := { s with io := { s.io with commands := rest } }) hs h
  · cases h

/-- Settles O39: reset is the tuple R40 writes; `CFG64` is the valid configuration of `State.reset`. -/
theorem resetValues : Obligations.ResetValues := by
  intro c
  refine ⟨rfl, rfl, rfl, List.length_replicate, fun x hx => ?_, rfl, rfl, rfl, Config.reference, by decide, rfl⟩
  exact List.eq_of_mem_replicate hx

/-- Settles O41: `State.reset` is the reset state of `CFG64`, a valid configuration. -/
theorem resetSatisfiesInvariants : Obligations.ResetSatisfiesInvariants :=
  ⟨fun _ hc => resetWith_inv hc, resetWith_inv (by decide)⟩

end Sys2Proof.Proofs
end

section
/-! PROOF. Noninterference, once for every view of the state: what a view hides has no part in what an instruction does to
the rest, if the shared operations do not let it through. -/

namespace Sys2Proof.Machine

/-! Operations that what a view hides has no part in. -/

/-- What `v` hides of the state before `f` does not show through `v` after it. -/
def Blind (v f : State → State) : Prop := ∀ s, v (f s) = v (f (v s))

section
variable {v f g : State → State}

theorem Blind.comp (hf : Blind v f) (hg : Blind v g) : Blind v fun s => f (g s) := fun s =>
  calc v (f (g s)) = v (f (v (g s))) := hf _
    _ = v (f (v (g (v s)))) := by rw [hg s]
    _ = v (f (g (v s))) := (hf _).symm

/-- An operation may depend on what `v` does not hide. -/
theorem Blind.read {α : Type} {r : State → α} (hr : ∀ s, r (v s) = r s) {h : α → State → State} (hh : ∀ a, Blind v (h a)) :
    Blind v fun s => h (r s) s := fun s => by
  simp only [hr]
  exact hh (r s) s

theorem Blind.ite {c : State → Prop} [DecidablePred c] (hc : ∀ s, c (v s) ↔ c s) (hf : Blind v f) (hg : Blind v g) :
    Blind v fun s => if c s then f s else g s := fun s => by
  simp only [hc]
  split
  · exact hf s
  · exact hg s

theorem Blind.of_commutes (hv : ∀ s, v (v s) = v s) (h : ∀ s, v (f s) = f (v s)) : Blind v f := fun s => by
  rw [h, h, hv]

/-- An instruction that runs a blind operation does the same to what `v` shows. -/
theorem Blind.exec_shown {i : Instr} (hf : Blind v f) (he : ∀ s, exec i s = .next (f s)) {s t : State}
    (h : exec i s = .next t) : ∃ u, exec i (v s) = .next u ∧ v u = v t := by
  rw [he] at h
  cases h
  exact ⟨f (v s), he _, (hf s).symm⟩

end

/-- The frame step (b) of `PROCESS` would offer (R162): none with an empty slot, and none inside where `Encode` has no
meaning. -/
def currentFrame (s : State) : Option (Option (List Byte)) := s.cur.map fun e => encodeFrame s.cfg e.header e.payload

/-- `PROCESS` looks at the current slot by the frame it would offer. -/
theorem execProcess_eq (s : State) :
    execProcess s =
      match currentFrame (fillCurrent (advanceTick s)) with
      | none => .next (finishProcess (fillCurrent (advanceTick s)))
      | some (some frame) => .next (finishProcess (handOff frame (fillCurrent (advanceTick s))))
      | some none => .refused .encodeOutsidePrecondition := by
  unfold execProcess currentFrame
  dsimp only
  cases (fillCurrent (advanceTick s)).cur with
  | none => rfl
  | some e =>
    dsimp only [Option.map_some]
    cases encodeFrame (fillCurrent (advanceTick s)).cfg e.header e.payload <;> rfl

/-- A delivered fragment once its slot is refreshed (R185, R186, R187). -/
def deliverRefreshed (k : Nat) (pn : U16) (sid : U32) (tf fi : U16) (p : List Byte) (s : State) : State :=
  if deliverAnswer s then
    if isLastFragment tf fi then callComplete sid .success (completeSlot k (reply .ack pn (callDeliver sid fi tf p s)))
    else reply .ack pn (callDeliver sid fi tf p s)
  else callComplete sid .rejected (completeSlot k (reply .nack pn (callDeliver sid fi tf p s)))

theorem deliverFragment_eq_deliverRefreshed (k : Nat) (pn : U16) (sid : U32) (tf fi : U16) (p : List Byte) (s : State) :
    deliverFragment k pn sid tf fi p s = deliverRefreshed k pn sid tf fi p (refreshSlot k s) := rfl

/-- What it takes for a view to hide something no instruction reads: the view leaves alone what the operations test, and the
operations are blind to what it hides. A slot is refreshed only where a fragment's stream stands, and that slot it shows
whole. -/
structure Hides (v : State → State) : Prop where
  idem : ∀ s, v (v s) = v s
  cfg : ∀ s, (v s).cfg = s.cfg
  rx : ∀ s, (v s).rx = s.rx
  io : ∀ s, (v s).io = s.io
  nextStreamId : ∀ s, (v s).nextStreamId = s.nextStreamId
  txHasRoom_eq : ∀ s, txHasRoom (v s) = txHasRoom s
  currentFrame_eq : ∀ s, currentFrame (v s) = currentFrame s
  streamSlotFor_eq : ∀ sid s, streamSlotFor sid (v s) = streamSlotFor sid s
  ring_io : ∀ s rx io, v { s with rx := rx, io := io } = { v s with rx := rx, io := io }
  reply_blind : ∀ t pn, Blind v (reply t pn)
  onAckOrNack_blind : ∀ isNack pn, Blind v (onAckOrNack isNack pn)
  enqueueData_blind : ∀ t p sid tf fi mr ron, Blind v (enqueueData t p sid tf fi mr ron)
  takeStreamId_blind : Blind v takeStreamId
  advanceTick_blind : Blind v advanceTick
  fillCurrent_blind : Blind v fillCurrent
  handOff_blind : ∀ frame, Blind v (handOff frame)
  sweepTimeouts_blind : Blind v sweepTimeouts
  openStream_comm : ∀ sid tf s, v (openStream sid tf s) = openStream sid tf (v s)
  openedSlot_eq : ∀ sid tf s,
    slotAt (v (openStream sid tf s)) (streamSlotFor sid s) = slotAt (openStream sid tf s) (streamSlotFor sid s)
  refreshSlot_shown : ∀ k s, slotAt (v s) k = slotAt s k → v (refreshSlot k s) = v (refreshSlot k (v s))
  completeSlot_blind : ∀ k, Blind v (completeSlot k)

namespace Hides

variable {v : State → State} (hv : Hides v)
include hv

/-- An operation on the ring and the host's side, of what these hold, is blind. -/
theorem of_ring_io {f : State → State} {r : State → List Byte} {o : State → HostSide}
    (hf : ∀ s, f s = { s with rx := r s, io := o s }) (hr : ∀ s, r (v s) = r s) (ho : ∀ s, o (v s) = o s) : Blind v f :=
  .of_commutes hv.idem fun s => by rw [hf, hf, hv.ring_io, hr, ho]

theorem deliverAnswer_eq (s : State) : deliverAnswer (v s) = deliverAnswer s :=
  deliverAnswer_congr _ _ (by rw [hv.io]) (by rw [hv.io])

theorem rxConsume_blind (n : Nat) : Blind v (rxConsume n) :=
  hv.of_ring_io (r := fun s => s.rx.drop n) (o := fun s => s.io) (fun _ => rfl) (by simp [hv.rx]) hv.io

theorem rxAppend_blind (b : Byte) : Blind v (rxAppend b) :=
  hv.of_ring_io (o := fun s => s.io) (rxAppend_eq b) (by simp [hv.rx, hv.cfg]) hv.io

theorem callDeliver_blind (sid : U32) (fi tf : U16) (p : List Byte) : Blind v (callDeliver sid fi tf p) :=
  hv.of_ring_io (r := fun s => s.rx) (fun _ => rfl) hv.rx (by simp [hv.io])

theorem callComplete_blind (sid : U32) (r : CompletionResult) : Blind v (callComplete sid r) :=
  hv.of_ring_io (r := fun s => s.rx) (fun _ => rfl) hv.rx (by simp [hv.io])

theorem returnToHost_blind (r : Option SendResult) : Blind v (returnToHost r) :=
  hv.of_ring_io (r := fun s => s.rx) (fun _ => rfl) hv.rx (by simp [hv.io])

/-! The reception of frames. -/

theorem deliverRefreshed_blind (k : Nat) (pn : U16) (sid : U32) (tf fi : U16) (p : List Byte) :
    Blind v (deliverRefreshed k pn sid tf fi p) := by
  have hr (t : ReplyType) : Blind v fun s => reply t pn (callDeliver sid fi tf p s) :=
    (hv.reply_blind t pn).comp (hv.callDeliver_blind sid fi tf p)
  have hc (t : ReplyType) (r : CompletionResult) : Blind v fun s => callComplete sid r
      (completeSlot k (reply t pn (callDeliver sid fi tf p s))) :=
    (hv.callComplete_blind sid r).comp ((hv.completeSlot_blind k).comp (hr t))
  exact .ite (fun s => by rw [hv.deliverAnswer_eq]) (.ite (fun _ => Iff.rfl) (hc .ack .success) (hr .ack))
    (hc .nack .rejected)

theorem receiveFragment_blind (pn : U16) (sid : U32) (tf fi : U16) (p : List Byte) :
    Blind v (receiveFragment pn sid tf fi p) := by
  intro s
  unfold receiveFragment
  split
  · dsimp only
    rw [hv.streamSlotFor_eq, ← hv.openStream_comm, hv.openedSlot_eq]
    split
    · rw [deliverFragment_eq_deliverRefreshed, deliverFragment_eq_deliverRefreshed,
        hv.deliverRefreshed_blind _ pn sid tf fi p (refreshSlot _ _), hv.refreshSlot_shown _ _ (hv.openedSlot_eq sid tf s),
        ← hv.deliverRefreshed_blind _ pn sid tf fi p (refreshSlot _ _)]
    · exact hv.reply_blind .nack pn _
  · exact hv.reply_blind .nack pn s

theorem dispatchFrame_blind (h : Header) (p : List Byte) : Blind v (dispatchFrame h p) := by
  unfold dispatchFrame
  cases h.type with
  | singleData =>
    exact .read (h := fun a s => reply (replyTo a) h.packetNumber (callDeliver _ _ _ p s)) hv.deliverAnswer_eq
      fun a => (hv.reply_blind _ _).comp (hv.callDeliver_blind _ _ _ _)
  | singleNoAck => exact hv.callDeliver_blind _ _ _ _
  | fragmentData => exact hv.receiveFragment_blind _ _ _ _ _
  | ack => exact hv.onAckOrNack_blind false _
  | nack => exact hv.onAckOrNack_blind true _

/-- A step of the scan is chosen by the ring and the configuration alone. -/
theorem scanStep_shown (s : State) :
    (scanStep s = none ∧ scanStep (v s) = none) ∨
      ∃ f, Blind v f ∧ scanStep s = some (f s) ∧ scanStep (v s) = some (f (v s)) := by
  unfold scanStep
  rw [hv.cfg, hv.rx]
  cases candidate s.cfg s.rx with
  | wait => exact .inl ⟨rfl, rfl⟩
  | oversize => exact .inr ⟨_, hv.rxConsume_blind 1, rfl, rfl⟩
  | good n h p => exact .inr ⟨_, (hv.dispatchFrame_blind h p).comp (hv.rxConsume_blind n), rfl, rfl⟩
  | badData n pn => exact .inr ⟨_, (hv.reply_blind .nack pn).comp (hv.rxConsume_blind n), rfl, rfl⟩
  | badOther => exact .inr ⟨_, hv.rxConsume_blind 1, rfl, rfl⟩
  | invalid => exact .inr ⟨_, hv.rxConsume_blind 1, rfl, rfl⟩

theorem scanLoop_blind (n : Nat) : Blind v (scanLoop n) := by
  induction n with
  | zero => exact fun s => (hv.idem s).symm
  | succ n ih =>
    intro s
    rcases hv.scanStep_shown s with ⟨h, h'⟩ | ⟨f, hf, h, h'⟩
    · simp only [scanLoop, h, h', hv.idem]
    · simp only [scanLoop, h, h']
      exact ih.comp hf s

theorem feedByte_blind (b : Byte) : Blind v (feedByte b) :=
  Blind.comp (f := scan) (.read (fun s => by rw [hv.rx]) hv.scanLoop_blind) (hv.rxAppend_blind b)

theorem feedBytes_blind (bs : List Byte) : Blind v (feedBytes bs) := by
  induction bs with
  | nil => exact fun s => (hv.idem s).symm
  | cons b bs ih => exact ih.comp (hv.feedByte_blind b)

/-! The sends. -/

theorem sendOne_blind (t : FrameType) (p : List Byte) (mr : U8) (ron : Bool) : Blind v (sendOne t p mr ron) :=
  .ite (fun s => by rw [hv.txHasRoom_eq]) ((hv.returnToHost_blind _).comp (hv.enqueueData_blind t p 0 0 0 mr ron))
    (hv.returnToHost_blind _)

theorem sendFragments_blind (p : List Byte) (sid : U32) (n : U16) (mr : U8) (ron : Bool) (is : List Nat) :
    Blind v (sendFragments p sid n mr ron is) := by
  induction is with
  | nil => exact hv.returnToHost_blind _
  | cons i is ih =>
    refine .ite (fun s => by rw [hv.txHasRoom_eq]) (ih.comp ?_) (hv.returnToHost_blind _)
    exact .read (r := fun s => fragment s.cfg p i) (fun s => by rw [hv.cfg]) fun a => hv.enqueueData_blind _ a _ _ _ _ _

theorem sendFragmented_blind (p : List Byte) (mr : U8) (ron : Bool) : Blind v (sendFragmented p mr ron) := by
  refine .ite (fun s => by rw [hv.cfg]) (hv.returnToHost_blind _) ?_
  exact .read (r := fun s => (fragmentCount s.cfg p.length, s.nextStreamId))
    (h := fun a s => sendFragments p a.2 (BitVec.ofNat 16 a.1) mr ron (List.range a.1) (takeStreamId s))
    (fun s => by rw [hv.cfg, hv.nextStreamId]) fun a => (hv.sendFragments_blind _ _ _ _ _ _).comp hv.takeStreamId_blind

theorem sendData_blind (p : List Byte) (mr : U8) (ron : Bool) : Blind v (sendData p mr ron) :=
  .ite (fun s => by rw [hv.cfg]) (hv.sendOne_blind _ _ _ _) (hv.sendFragmented_blind _ _ _)

theorem sendUnacknowledged_blind (p : List Byte) : Blind v (sendUnacknowledged p) :=
  .ite (fun s => by rw [hv.cfg]) (hv.sendOne_blind _ _ _ _) (hv.returnToHost_blind _)

/-! Whole instructions. -/

theorem exec_process_shown {s t : State} (h : exec .process s = .next t) : ∃ u, exec .process (v s) = .next u ∧ v u = v t := by
  have hfill : Blind v fun s => fillCurrent (advanceTick s) := hv.fillCurrent_blind.comp hv.advanceTick_blind
  have hfinish : Blind v finishProcess := (hv.returnToHost_blind none).comp hv.sweepTimeouts_blind
  have hframe : currentFrame (fillCurrent (advanceTick (v s))) =
      currentFrame (fillCurrent (advanceTick s)) := by
    rw [← hv.currentFrame_eq, ← hfill s, hv.currentFrame_eq]
  rw [exec_process, execProcess_eq] at h ⊢
  rw [hframe]
  split at h
  · cases h
    exact ⟨_, rfl, (hfinish.comp hfill s).symm⟩
  · cases h
    exact ⟨_, rfl, (hfinish.comp ((hv.handOff_blind _).comp hfill) s).symm⟩
  · cases h

/-- No instruction lets through what the view hides. -/
theorem exec_shown {i : Instr} {s t : State} (h : exec i s = .next t) : ∃ u, exec i (v s) = .next u ∧ v u = v t := by
  rcases instr_cases i with (⟨hd, p, rfl⟩ | ⟨b, rfl⟩ | ⟨bs, rfl⟩) | ⟨p, mr, ron, rfl⟩ | ⟨p, rfl⟩ | rfl
  · exact (hv.dispatchFrame_blind hd p).exec_shown (exec_instrOfFrame hd p) h
  · exact ((hv.returnToHost_blind none).comp (hv.feedByte_blind b)).exec_shown (exec_feed b) h
  · exact ((hv.returnToHost_blind none).comp (hv.feedBytes_blind bs)).exec_shown (exec_dataReceived bs) h
  · exact (hv.sendData_blind p mr ron).exec_shown (exec_send p mr ron) h
  · exact (hv.sendUnacknowledged_blind p).exec_shown (exec_sendNoAck p) h
  · exact hv.exec_process_shown h

end Hides

end Sys2Proof.Machine
end

section
/-! PROOF. `enqueueTick` (R37) and the other fields of a free slot (R33) are hidden by the two views of Safety.lean. -/

namespace Sys2Proof.Machine

/-! Entries without their `enqueueTick` (R37). -/

/-- An entry with its `enqueueTick` set to 0. -/
def eraseTick (e : PendingPacket) : PendingPacket := { e with enqueueTick := 0 }

theorem eraseEnqueueTicks_eq (s : State) :
    eraseEnqueueTicks s = { s with txq := s.txq.map eraseTick, cur := s.cur.map eraseTick } := rfl

@[simp] theorem eraseTick_header (e : PendingPacket) : (eraseTick e).header = e.header := rfl
@[simp] theorem eraseTick_eraseTick (e : PendingPacket) : eraseTick (eraseTick e) = eraseTick e := rfl
@[simp] theorem eraseTick_retried (now : U32) (e : PendingPacket) :
    eraseTick (retried now (eraseTick e)) = eraseTick (retried now e) := rfl
@[simp] theorem answers_eraseTick (pn : U16) (e : PendingPacket) : answers pn (eraseTick e) = answers pn e := rfl
@[simp] theorem hasBudget_eraseTick (e : PendingPacket) : hasBudget (eraseTick e) = hasBudget e := rfl

theorem txHasRoom_eraseEnqueueTicks (s : State) : txHasRoom (eraseEnqueueTicks s) = txHasRoom s := by
  simp [txHasRoom, eraseEnqueueTicks_eq]

theorem eraseEnqueueTicks_idem (s : State) : eraseEnqueueTicks (eraseEnqueueTicks s) = eraseEnqueueTicks s := by
  simp [eraseEnqueueTicks_eq, Function.comp_def]

/-- An operation that writes neither the queue nor the current slot, and reads neither. -/
theorem blind_eraseEnqueueTicks {f : State → State} (h : ∀ s, eraseEnqueueTicks (f s) = f (eraseEnqueueTicks s)) :
    Blind eraseEnqueueTicks f := .of_commutes eraseEnqueueTicks_idem h

/-- The new entry carries the tick, which the view hides; the others carry on as they were. -/
theorem reply_eraseEnqueueTicks (t : ReplyType) (pn : U16) : Blind eraseEnqueueTicks (reply t pn) := fun s => by
  rw [reply_eq, reply_eq, txHasRoom_eraseEnqueueTicks]
  cases txHasRoom s <;> simp [eraseEnqueueTicks_eq, Function.comp_def]

theorem enqueueData_eraseEnqueueTicks (t : FrameType) (p : List Byte) (sid : U32) (tf fi : U16) (mr : U8) (ron : Bool) :
    Blind eraseEnqueueTicks (enqueueData t p sid tf fi mr ron) := fun s => by
  unfold enqueueData
  rw [txHasRoom_eraseEnqueueTicks]
  cases txHasRoom s <;> simp [eraseEnqueueTicks_eq, Function.comp_def]

/-- The matcher tests number, type and budget; a re-enqueued entry takes the tick, which the view hides. -/
theorem onAckOrNack_eraseEnqueueTicks (isNack : Bool) (pn : U16) : Blind eraseEnqueueTicks (onAckOrNack isNack pn) := by
  intro s
  cases isNack with
  | false =>
    rw [onAckOrNack, onAckOrNack, matchEntries_ack, matchEntries_ack]
    simp [eraseEnqueueTicks_eq, List.filter_map, Function.comp_def]
  | true =>
    rw [onAckOrNack, onAckOrNack, matchEntries_nack, matchEntries_nack]
    simp [eraseEnqueueTicks_eq, List.filter_map, Function.comp_def]

theorem fillCurrent_eraseEnqueueTicks (s : State) :
    eraseEnqueueTicks (fillCurrent s) = fillCurrent (eraseEnqueueTicks s) := by
  obtain ⟨cfg, rx, txq, cur, streams, npn, nsid, tick, io⟩ := s
  cases cur <;> cases txq <;> rfl

theorem handOff_eraseEnqueueTicks (frame : List Byte) (s : State) :
    eraseEnqueueTicks (handOff frame s) = handOff frame (eraseEnqueueTicks s) := by
  unfold handOff
  rw [txAnswer_congr (eraseEnqueueTicks s) s rfl rfl]
  split <;> rfl

theorem sweepTimeouts_eraseEnqueueTicks (s : State) :
    eraseEnqueueTicks (sweepTimeouts s) = sweepTimeouts (eraseEnqueueTicks s) := by
  rw [sweepTimeouts_eq, sweepTimeouts_eq]
  rfl

theorem openStream_eraseEnqueueTicks (sid : U32) (tf : U16) (s : State) :
    eraseEnqueueTicks (openStream sid tf s) = openStream sid tf (eraseEnqueueTicks s) := by
  unfold openStream allocateStream
  rw [show lookupStream sid (eraseEnqueueTicks s) = lookupStream sid s from rfl,
    show (eraseEnqueueTicks s).streams = s.streams from rfl]
  split
  · rfl
  · split <;> rfl

/-- No shared operation lets an `enqueueTick` through (R37). -/
theorem hides_eraseEnqueueTicks : Hides eraseEnqueueTicks where
  idem := eraseEnqueueTicks_idem
  cfg _ := rfl
  rx _ := rfl
  io _ := rfl
  nextStreamId _ := rfl
  txHasRoom_eq := txHasRoom_eraseEnqueueTicks
  currentFrame_eq s := by
    simp only [currentFrame, eraseEnqueueTicks_eq, Option.map_map]
    rfl
  streamSlotFor_eq _ _ := rfl
  ring_io _ _ _ := rfl
  reply_blind := reply_eraseEnqueueTicks
  onAckOrNack_blind := onAckOrNack_eraseEnqueueTicks
  enqueueData_blind := enqueueData_eraseEnqueueTicks
  takeStreamId_blind := blind_eraseEnqueueTicks fun _ => rfl
  advanceTick_blind := blind_eraseEnqueueTicks fun _ => rfl
  fillCurrent_blind := blind_eraseEnqueueTicks fillCurrent_eraseEnqueueTicks
  handOff_blind frame := blind_eraseEnqueueTicks (handOff_eraseEnqueueTicks frame)
  sweepTimeouts_blind := blind_eraseEnqueueTicks sweepTimeouts_eraseEnqueueTicks
  openStream_comm := openStream_eraseEnqueueTicks
  openedSlot_eq _ _ _ := rfl
  refreshSlot_shown k s _ := blind_eraseEnqueueTicks (f := refreshSlot k) (fun _ => rfl) s
  completeSlot_blind _ := blind_eraseEnqueueTicks fun _ => rfl

/-! Slots without the fields of the free ones (R33). -/

/-- A slot with its other fields set to 0 if it is free. -/
def eraseSlot (x : StreamSlot) : StreamSlot := if x.completed then StreamSlot.free else x

theorem eraseFreeSlots_eq (s : State) : eraseFreeSlots s = { s with streams := s.streams.map eraseSlot } := rfl

theorem eraseSlot_of_isActive {x : StreamSlot} (h : isActive x = true) : eraseSlot x = x := by
  unfold isActive at h
  simp_all [eraseSlot]

theorem eraseSlot_of_completed {x : StreamSlot} (h : x.completed = true) : eraseSlot x = StreamSlot.free := if_pos h

@[simp] theorem eraseSlot_free : eraseSlot StreamSlot.free = StreamSlot.free := rfl

@[simp] theorem eraseSlot_completed (x : StreamSlot) : (eraseSlot x).completed = x.completed := by
  unfold eraseSlot
  cases h : x.completed <;> simp [h, StreamSlot.free]

@[simp] theorem isActive_eraseSlot (x : StreamSlot) : isActive (eraseSlot x) = isActive x := by simp [isActive]

@[simp] theorem eraseSlot_eraseSlot (x : StreamSlot) : eraseSlot (eraseSlot x) = eraseSlot x := by
  cases h : x.completed
  · have ha : eraseSlot x = x := eraseSlot_of_isActive (by simp [isActive, h])
    rw [ha, ha]
  · rw [eraseSlot_of_completed h, eraseSlot_free]

@[simp] theorem holdsStream_eraseSlot (sid : U32) (x : StreamSlot) : holdsStream sid (eraseSlot x) = holdsStream sid x := by
  cases h : isActive x
  · simp [holdsStream, h]
  · rw [eraseSlot_of_isActive h]

theorem eraseFreeSlots_idem (s : State) : eraseFreeSlots (eraseFreeSlots s) = eraseFreeSlots s := by
  simp [eraseFreeSlots_eq, Function.comp_def]

/-- An operation that neither writes the table nor reads it. -/
theorem blind_eraseFreeSlots {f : State → State} (h : ∀ s, eraseFreeSlots (f s) = f (eraseFreeSlots s)) :
    Blind eraseFreeSlots f := .of_commutes eraseFreeSlots_idem h

/-- A table with no free slot is shown whole. -/
theorem eraseFreeSlots_of_all_active {s : State} (h : ∀ x ∈ s.streams, isActive x = true) : eraseFreeSlots s = s := by
  rw [eraseFreeSlots_eq, (List.map_congr_left fun x hx => eraseSlot_of_isActive (h x hx)).trans (List.map_id' _)]

theorem slotAt_eraseFreeSlots (s : State) (k : Nat) : slotAt (eraseFreeSlots s) k = eraseSlot (slotAt s k) := by
  simp only [slotAt, eraseFreeSlots_eq, List.getD_eq_getElem?_getD, List.getElem?_map]
  cases s.streams[k]? <;> simp

theorem eraseFreeSlots_setSlot (k : Nat) (x : StreamSlot) (s : State) :
    eraseFreeSlots (setSlot k x s) = setSlot k (eraseSlot x) (eraseFreeSlots s) := by
  simp [eraseFreeSlots_eq, setSlot, List.map_set]

/-- Two tables that show the same show the same once one slot of each is written with what shows the same. -/
theorem setSlot_eraseFreeSlots {k : Nat} {x y : StreamSlot} (h : eraseSlot x = eraseSlot y) (s : State) :
    eraseFreeSlots (setSlot k x s) = eraseFreeSlots (setSlot k y (eraseFreeSlots s)) := by
  rw [eraseFreeSlots_setSlot, eraseFreeSlots_setSlot, eraseFreeSlots_idem, h]

theorem completeSlot_eraseFreeSlots (k : Nat) : Blind eraseFreeSlots (completeSlot k) :=
  fun s => setSlot_eraseFreeSlots (x := { slotAt s k with completed := true })
    (y := { slotAt (eraseFreeSlots s) k with completed := true }) rfl s

theorem refreshSlot_eraseFreeSlots (k : Nat) (s : State) (h : slotAt (eraseFreeSlots s) k = slotAt s k) :
    eraseFreeSlots (refreshSlot k s) = eraseFreeSlots (refreshSlot k (eraseFreeSlots s)) := by
  rw [refreshSlot_eq, refreshSlot_eq, h]
  exact setSlot_eraseFreeSlots rfl s

/-! Which slot a fragment works on. -/

theorem lookupStream_eraseFreeSlots (sid : U32) (s : State) :
    lookupStream sid (eraseFreeSlots s) = lookupStream sid s := by
  simp [lookupStream, eraseFreeSlots_eq, List.findIdx?_map, Function.comp_def]

theorem findIdx?_completed_eraseFreeSlots (s : State) :
    (eraseFreeSlots s).streams.findIdx? (fun x => x.completed) = s.streams.findIdx? fun x => x.completed := by
  simp [eraseFreeSlots_eq, List.findIdx?_map, Function.comp_def]

/-- With no free slot the view shows the whole table, the ages an eviction compares with it. -/
theorem eraseFreeSlots_of_findIdx?_eq_none {s : State} (h : s.streams.findIdx? (fun x => x.completed) = none) :
    eraseFreeSlots s = s :=
  eraseFreeSlots_of_all_active fun x hx => by simp [isActive, List.findIdx?_eq_none_iff.1 h x hx]

theorem allocatedSlot_eraseFreeSlots (s : State) : allocatedSlot (eraseFreeSlots s) = allocatedSlot s := by
  cases h : s.streams.findIdx? (fun x => x.completed) with
  | some k => simp only [allocatedSlot, findIdx?_completed_eraseFreeSlots, h]
  | none => rw [eraseFreeSlots_of_findIdx?_eq_none h]

theorem streamSlotFor_eraseFreeSlots (sid : U32) (s : State) :
    streamSlotFor sid (eraseFreeSlots s) = streamSlotFor sid s := by
  rw [streamSlotFor, streamSlotFor, lookupStream_eraseFreeSlots, allocatedSlot_eraseFreeSlots]

/-- An eviction takes place in a table with no free slot, and leaves none free. -/
theorem eraseFreeSlots_allocateStream_of_eq_none {s : State} (h : s.streams.findIdx? (fun x => x.completed) = none)
    (sid : U32) (tf : U16) : eraseFreeSlots (allocateStream sid tf s) = allocateStream sid tf s := by
  refine eraseFreeSlots_of_all_active fun x hx => ?_
  simp only [allocateStream, h, setSlot_streams, raise_streamEvicted, callComplete_streams, completeSlot_streams,
    List.set_set] at hx
  rcases List.mem_or_eq_of_mem_set hx with hx | rfl
  · simp [isActive, List.findIdx?_eq_none_iff.1 h x hx]
  · rfl

theorem allocateStream_eraseFreeSlots (sid : U32) (tf : U16) (s : State) :
    eraseFreeSlots (allocateStream sid tf s) = allocateStream sid tf (eraseFreeSlots s) := by
  cases h : s.streams.findIdx? (fun x => x.completed) with
  | some k =>
    simp only [allocateStream, findIdx?_completed_eraseFreeSlots, h]
    exact eraseFreeSlots_setSlot k _ s
  | none => rw [eraseFreeSlots_allocateStream_of_eq_none h, eraseFreeSlots_of_findIdx?_eq_none h]

theorem openStream_eraseFreeSlots (sid : U32) (tf : U16) (s : State) :
    eraseFreeSlots (openStream sid tf s) = openStream sid tf (eraseFreeSlots s) := by
  unfold openStream
  rw [lookupStream_eraseFreeSlots]
  split
  · rfl
  · exact allocateStream_eraseFreeSlots sid tf s

/-- The slot a fragment works on is shown whole: it is active once the stream is open (R182, R183). -/
theorem openedSlot_eraseFreeSlots (sid : U32) (tf : U16) (s : State) :
    slotAt (eraseFreeSlots (openStream sid tf s)) (streamSlotFor sid s) =
      slotAt (openStream sid tf s) (streamSlotFor sid s) := by
  unfold openStream streamSlotFor
  cases hl : lookupStream sid s with
  | some k =>
    obtain ⟨hk, hx, -⟩ := List.findIdx?_eq_some_iff_getElem.1 hl
    have hslot : slotAt s k = s.streams[k] := slotAt_of_getElem? s k _ (List.getElem?_eq_getElem hk)
    dsimp only [Option.getD_some]
    rw [slotAt_eraseFreeSlots, eraseSlot_of_isActive]
    rw [hslot]
    exact (Bool.and_eq_true_iff.1 hx).1
  | none =>
    dsimp only [Option.getD_none]
    cases h : s.streams.findIdx? (fun x => x.completed) with
    | some k =>
      obtain ⟨hk, -, -⟩ := List.findIdx?_eq_some_iff_getElem.1 h
      simp only [allocateStream, allocatedSlot, h]
      rw [slotAt_eraseFreeSlots, slotAt_setSlot_self _ _ _ hk]
      rfl
    | none => rw [eraseFreeSlots_allocateStream_of_eq_none h]

/-! The sweep tests active slots only (R190). -/

@[simp] theorem isExpired_eraseSlot (c : Config) (now : U32) (x : StreamSlot) :
    isExpired c now (eraseSlot x) = isExpired c now x := by
  cases h : isActive x
  · simp [isExpired, h]
  · rw [eraseSlot_of_isActive h]

theorem isActive_of_isExpired {c : Config} {now : U32} {x : StreamSlot} (h : isExpired c now x = true) :
    isActive x = true := (Bool.and_eq_true_iff.1 h).1

theorem sweptTable_map_eraseSlot (c : Config) (now : U32) (xs : List StreamSlot) :
    (sweptTable c now (xs.map eraseSlot)).map eraseSlot = (sweptTable c now xs).map eraseSlot := by
  simp only [sweptTable, List.map_map, pastThreshold_eq_isExpired]
  refine List.map_congr_left fun x _ => ?_
  simp only [Function.comp_apply, isExpired_eraseSlot]
  split
  · rfl
  · exact eraseSlot_eraseSlot x

theorem timeoutCalls_map_eraseSlot (c : Config) (now : U32) (xs : List StreamSlot) :
    timeoutCalls c now (xs.map eraseSlot) = timeoutCalls c now xs := by
  simp only [timeoutCalls, List.filter_map, List.map_map, funext (pastThreshold_eq_isExpired c now)]
  have hf : isExpired c now ∘ eraseSlot = isExpired c now := funext fun x => isExpired_eraseSlot c now x
  rw [hf]
  refine List.map_congr_left fun x hx => ?_
  rw [Function.comp_apply, eraseSlot_of_isActive (isActive_of_isExpired (List.mem_filter.1 hx).2)]

theorem sweepTimeouts_eraseFreeSlots : Blind eraseFreeSlots sweepTimeouts := fun s => by
  rw [sweepTimeouts_eq, sweepTimeouts_eq]
  simp only [eraseFreeSlots_eq, sweptTable_map_eraseSlot, timeoutCalls_map_eraseSlot]

/-! The operations on the queue and the current slot commute with the view. -/

theorem enqueueData_eraseFreeSlots (t : FrameType) (p : List Byte) (sid : U32) (tf fi : U16) (mr : U8) (ron : Bool)
    (s : State) :
    eraseFreeSlots (enqueueData t p sid tf fi mr ron s) = enqueueData t p sid tf fi mr ron (eraseFreeSlots s) := by
  unfold enqueueData
  rw [show txHasRoom (eraseFreeSlots s) = txHasRoom s from rfl]
  split <;> rfl

theorem onAckOrNack_eraseFreeSlots (isNack : Bool) (pn : U16) (s : State) :
    eraseFreeSlots (onAckOrNack isNack pn s) = onAckOrNack isNack pn (eraseFreeSlots s) := by
  cases isNack with
  | false => rw [onAckOrNack, onAckOrNack, matchEntries_ack, matchEntries_ack]; rfl
  | true => rw [onAckOrNack, onAckOrNack, matchEntries_nack, matchEntries_nack]; rfl

theorem fillCurrent_eraseFreeSlots (s : State) : eraseFreeSlots (fillCurrent s) = fillCurrent (eraseFreeSlots s) := by
  obtain ⟨cfg, rx, txq, cur, streams, npn, nsid, tick, io⟩ := s
  cases cur <;> cases txq <;> rfl

theorem handOff_eraseFreeSlots (frame : List Byte) (s : State) :
    eraseFreeSlots (handOff frame s) = handOff frame (eraseFreeSlots s) := by
  unfold handOff
  rw [txAnswer_congr (eraseFreeSlots s) s rfl rfl]
  split <;> rfl

/-- No shared operation lets a field of a free slot through (R33). -/
theorem hides_eraseFreeSlots : Hides eraseFreeSlots where
  idem := eraseFreeSlots_idem
  cfg _ := rfl
  rx _ := rfl
  io _ := rfl
  nextStreamId _ := rfl
  txHasRoom_eq _ := rfl
  currentFrame_eq _ := rfl
  streamSlotFor_eq := streamSlotFor_eraseFreeSlots
  ring_io _ _ _ := rfl
  reply_blind t pn := blind_eraseFreeSlots fun s => by rw [reply_eq, reply_eq]; rfl
  onAckOrNack_blind isNack pn := blind_eraseFreeSlots (onAckOrNack_eraseFreeSlots isNack pn)
  enqueueData_blind t p sid tf fi mr ron := blind_eraseFreeSlots (enqueueData_eraseFreeSlots t p sid tf fi mr ron)
  takeStreamId_blind := blind_eraseFreeSlots fun _ => rfl
  advanceTick_blind := blind_eraseFreeSlots fun _ => rfl
  fillCurrent_blind := blind_eraseFreeSlots fillCurrent_eraseFreeSlots
  handOff_blind frame := blind_eraseFreeSlots (handOff_eraseFreeSlots frame)
  sweepTimeouts_blind := sweepTimeouts_eraseFreeSlots
  openStream_comm := openStream_eraseFreeSlots
  openedSlot_eq := openedSlot_eraseFreeSlots
  refreshSlot_shown := refreshSlot_eraseFreeSlots
  completeSlot_blind := completeSlot_eraseFreeSlots

end Sys2Proof.Machine

namespace Sys2Proof.Proofs

open Sys2Proof.Machine

/-- Settles O53: the view that sets every `enqueueTick` to 0 hides what no operation lets through. -/
theorem enqueueTickIsNeverRead : Obligations.EnqueueTickIsNeverRead :=
  fun _ _ _ h => hides_eraseEnqueueTicks.exec_shown h

/-- Settles O54: the view that clears every free slot hides what no operation lets through; a fragment reads its own slot,
which is active by then, and an eviction compares slots of which none is free. -/
theorem freeSlotFieldsAreNeverRead : Obligations.FreeSlotFieldsAreNeverRead :=
  fun _ _ _ h => hides_eraseFreeSlots.exec_shown h

end Sys2Proof.Proofs
end

section
/-! PROOF. The decoder and the encoder of instructions (R80, R102 to R107), and the rows of the opcode table (R83). -/

namespace Sys2Proof.Machine

/-! The parts of a frame, and `Decode` reading `Encode` back. -/

/-- A frame is its header, and after it the payload and the checksum (R102). -/
theorem frameBytes_eq (c : Config) (h : Header) (p : List Byte) :
    frameBytes c h p = headerBytes c h ++ (p ++ bytes16 (crc16 (headerBytes c h ++ p))) :=
  List.append_assoc _ _ _

theorem frameBytes_length_sub_checksumSize (c : Config) (h : Header) (p : List Byte) :
    (frameBytes c h p).length - checksumSize = (headerBytes c h ++ p).length := by
  simp [frameBytes]

/-- What stands before a frame's checksum is its header and its payload. -/
theorem frameBytes_take (c : Config) (h : Header) (p : List Byte) :
    (frameBytes c h p).take ((frameBytes c h p).length - checksumSize) = headerBytes c h ++ p := by
  rw [frameBytes_length_sub_checksumSize]
  exact sealBytes_take _

/-- A frame ends with the checksum of what stands before it (R74). -/
theorem le16_frameBytes_checksum (c : Config) (h : Header) (p : List Byte) :
    le16 (frameBytes c h p) ((frameBytes c h p).length - checksumSize) = crc16 (headerBytes c h ++ p) := by
  rw [frameBytes_length_sub_checksumSize]
  exact le16_sealBytes _

/-- R109: every check of `Decode` passes on the bytes of a header and a payload within the precondition of `Encode`, and
what it answers is that header and that payload. -/
theorem decodeFrame_frameBytes {c : Config} {h : Header} {p : List Byte} (hc : c.typeCodes.Injective)
    (hsize : h.payloadSize.toNat = p.length) (hp : p.length ≤ c.maxPayload) :
    decodeFrame c (frameBytes c h p) = .ok h p := by
  have hlen : (frameBytes c h p).length = minFrameSize + p.length := frameBytes_length c h p
  have hlong : ¬ (frameBytes c h p).length < minFrameSize := by omega
  have hfields : ¬ (p.length ≠ (frameBytes c h p).length - minFrameSize ∨ c.maxPayload < p.length) := by omega
  have hps : (le16 (frameBytes c h p) 3).toNat = p.length := by
    rw [frameBytes_eq, le16_headerBytes_payloadSize, hsize]
  have htype : typeOfCode c ((frameBytes c h p).getD 2 0) = some h.type := by
    rw [frameBytes_eq, getD_headerBytes_type, typeOfCode_typeCode c hc]
  have hheader : headerAt h.type (frameBytes c h p) = h := by rw [frameBytes_eq, headerAt_headerBytes]
  have hpayload : (headerBytes c h ++ p).drop headerSize = p := List.drop_left' (headerBytes_length c h)
  unfold decodeFrame
  rw [if_neg hlong, frameBytes_take, le16_frameBytes_checksum, if_neg (not_not_intro rfl), hps, if_neg hfields, htype]
  simp only [hheader, hpayload]

/-! Frame instructions: the size a header declares is no operand, it is the payload's length (R82). -/

/-- A frame instruction is encoded as the frame of its header with the payload's length as its size. -/
theorem encode_instrOfFrame (c : Config) (h : Header) (p : List Byte) :
    encode c (instrOfFrame h p) = .frame (frameBytes c { h with payloadSize := BitVec.ofNat 16 p.length } p) := by
  obtain ⟨pn, t, ps, sid, tf, fi⟩ := h
  cases t <;> rfl

theorem instrOfFrame_payloadSize (h : Header) (p : List Byte) (n : U16) :
    instrOfFrame { h with payloadSize := n } p = instrOfFrame h p := rfl

/-- R72 bounds the payload of a frame instruction, whatever its type. -/
theorem wf_instrOfFrame (c : Config) (h : Header) (p : List Byte) :
    (instrOfFrame h p).wf c = decide (p.length ≤ c.maxPayload) := by
  unfold instrOfFrame
  cases h.type <;> rfl

theorem decode_frame_of_decodeFrame {c : Config} {b : List Byte} {h : Header} {p : List Byte}
    (hd : decodeFrame c b = .ok h p) : decode c (.frame b) = .ok (instrOfFrame h p) := by
  simp only [decode, hd]

/-- A well-formed frame instruction is read back from its frame: its length fits the size field (R8, R72). -/
theorem decode_encode_instrOfFrame {c : Config} (hc : c.Valid) {h : Header} {p : List Byte}
    (hw : (instrOfFrame h p).wf c = true) : decode c (encode c (instrOfFrame h p)) = .ok (instrOfFrame h p) := by
  have hp : p.length ≤ c.maxPayload := by simpa [wf_instrOfFrame] using hw
  have hinj : c.typeCodes.Injective := by
    obtain ⟨-, -, -, -, -, -, -, hinj⟩ := hc
    exact hinj
  have hsize : (BitVec.ofNat 16 p.length).toNat = p.length := Nat.mod_eq_of_lt (payload_length_lt hc hp)
  rw [encode_instrOfFrame, decode_frame_of_decodeFrame (decodeFrame_frameBytes hinj hsize hp), instrOfFrame_payloadSize]

/-- Every well-formed instruction is read back: a frame by R109, a command from its tag and its own lanes. -/
theorem decode_encode {c : Config} (hc : c.Valid) {i : Instr} (hw : i.wf c = true) : decode c (encode c i) = .ok i := by
  rcases instr_cases i with (⟨h, p, rfl⟩ | ⟨b, rfl⟩ | ⟨bs, rfl⟩) | ⟨p, mr, ron, rfl⟩ | ⟨p, rfl⟩ | rfl
  case inl.inl => exact decode_encode_instrOfFrame hc hw
  all_goals rfl

/-- A word that the encoder writes for an instruction of `CFG64` decodes to it. -/
theorem decode_of_encode_cfg64 {i : Instr} {e : Encoded} (he : encode Config.cfg64 i = e)
    (hw : i.wf Config.cfg64 = true) : decode Config.cfg64 e = .ok i :=
  he ▸ decode_encode (by decide) hw

/-! The rows of the opcode table. -/

/-- R83: an encoded instruction fits the row of its own mnemonic. -/
theorem rowMatches_tableRow_self {c : Config} (hc : c.typeCodes = {}) (i : Instr) :
    rowMatches (tableRow i) (encode c i) = true :=
  match i with
  | .singleData pn sid tf fi p => Laws.OwnTableRow.singleData pn sid tf fi p c hc
  | .fragmentData pn sid tf fi p => Laws.OwnTableRow.fragmentData pn sid tf fi p c hc
  | .ack pn sid tf fi p => Laws.OwnTableRow.ack pn sid tf fi p c hc
  | .nack pn sid tf fi p => Laws.OwnTableRow.nack pn sid tf fi p c hc
  | .singleNoAck pn sid tf fi p => Laws.OwnTableRow.singleNoAck pn sid tf fi p c hc
  | .send p mr ron => Laws.OwnTableRow.send p mr ron c hc
  | .sendNoAck p => Laws.OwnTableRow.sendNoAck p c hc
  | .feed b => Laws.OwnTableRow.feed b c hc
  | .dataReceived bs => Laws.OwnTableRow.dataReceived bs c hc
  | .process => Laws.OwnTableRow.process c hc

/-- Each of the two formats has one mask for all its rows (R83). -/
theorem tableRow_mask (i : Instr) :
    (∃ pattern, tableRow i = .frame pattern frameMask) ∨ (∃ pattern, tableRow i = .cmd pattern 0xF) := by
  cases i with
  | singleData | fragmentData | ack | nack | singleNoAck => exact .inl ⟨_, rfl⟩
  | send | sendNoAck | feed | dataReceived | process => exact .inr ⟨_, rfl⟩

/-- A row that a frame fits has the frame's masked header as its match. -/
theorem tableRow_of_rowMatches_frame {i : Instr} {b : List Byte} (h : rowMatches (tableRow i) (.frame b) = true) :
    tableRow i = .frame (List.zipWith (· &&& ·) b frameMask) frameMask := by
  obtain ⟨pattern, hrow⟩ | ⟨pattern, hrow⟩ := tableRow_mask i <;> rw [hrow] at h ⊢
  · rw [eq_of_beq h]
  · cases h

/-- A row that a command word fits has the word's masked tag as its match. -/
theorem tableRow_of_rowMatches_command {i : Instr} {w : CommandWord} (h : rowMatches (tableRow i) (.command w) = true) :
    tableRow i = .cmd (w.tag &&& 0xF) 0xF := by
  obtain ⟨pattern, hrow⟩ | ⟨pattern, hrow⟩ := tableRow_mask i <;> rw [hrow] at h ⊢
  · cases h
  · rw [eq_of_beq h]

/-- No two rows share a word, since the word's masked bits are the match of both. -/
theorem tableRow_eq_of_rowMatches {i j : Instr} {e : Encoded} (hi : rowMatches (tableRow i) e = true)
    (hj : rowMatches (tableRow j) e = true) : tableRow j = tableRow i := by
  cases e with
  | frame b => exact (tableRow_of_rowMatches_frame hj).trans (tableRow_of_rowMatches_frame hi).symm
  | command w => exact (tableRow_of_rowMatches_command hj).trans (tableRow_of_rowMatches_command hi).symm

/-! Tags that name no command. -/

/-- R80 gives the tags 0 to 4 a meaning, and no other (log 4). -/
theorem decodeCommand_of_four_lt_tag {w : CommandWord} (h : 4 < w.tag.toNat) :
    decodeCommand w = .error (.illegalCommandTag w.tag) := by
  unfold decodeCommand
  split
  case h_6 => rfl
  all_goals omega

/-- A word at the head of the port that is no command is reported with its tag. -/
theorem fetchCommand_of_decodeCommand_error {s : State} {w : CommandWord} {rest : List CommandWord} {e : DecodeError}
    (hc : s.io.commands = w :: rest) (hd : decodeCommand w = .error e) : fetchCommand s = .illegalTag w.tag := by
  simp only [fetchCommand, hc, hd]

/-- A step that finds an illegal tag refuses it by name. -/
theorem step_of_fetch_illegalTag {s : State} {tag : BitVec 4} (hf : fetch s = .illegalTag tag) :
    step s = .refused (.illegalCommandTag tag) := by
  simp only [step, hf]

end Sys2Proof.Machine

namespace Sys2Proof.Proofs

open Sys2Proof.Machine

/-- Settles O3: the precondition of `Encode` holds of every well-formed frame instruction. -/
theorem decodeReadsBackEncode : Obligations.DecodeReadsBackEncode :=
  fun _ _ hc hw => decode_encode hc hw

/-- Settles O6: an encoded instruction fits its own row, and no word fits two rows. -/
theorem encodedInstructionFitsItsRowOnly : Obligations.EncodedInstructionFitsItsRowOnly := by
  intro c i j hc
  have hown : rowMatches (tableRow i) (encode c i) = true := rowMatches_tableRow_self hc i
  rw [Bool.eq_iff_iff, decide_eq_true_iff]
  exact ⟨tableRow_eq_of_rowMatches hown, fun hrow => hrow ▸ hown⟩

/-- Settles O7: each word is what the encoder writes for its instruction, so the decoder reads that instruction back. -/
theorem writtenWordsDecode : Obligations.WrittenWordsDecode :=
  ⟨decode_of_encode_cfg64 (by decide +kernel) (by decide), decode_of_encode_cfg64 (by decide +kernel) (by decide),
    decode_of_encode_cfg64 (by decide +kernel) (by decide), decode_of_encode_cfg64 (by decide +kernel) (by decide),
    decode_of_encode_cfg64 (by decide +kernel) (by decide), decode_of_encode_cfg64 rfl rfl,
    decode_of_encode_cfg64 rfl rfl, decode_of_encode_cfg64 rfl rfl, decode_of_encode_cfg64 rfl rfl,
    decode_of_encode_cfg64 rfl rfl⟩

/-- Settles O47: the waiting ring sends `fetch` to the port, whose head is no command of R80. -/
theorem illegalTagIsRefused : Obligations.IllegalTagIsRefused := by
  intro s w rest hr hc htag
  have hd : decodeCommand w = .error (.illegalCommandTag w.tag) := decodeCommand_of_four_lt_tag htag
  have hf : fetch s = .illegalTag w.tag := (fetch_of_ringOk hr).trans (fetchCommand_of_decodeCommand_error hc hd)
  exact step_of_fetch_illegalTag hf

end Sys2Proof.Proofs
end

section
/-! PROOF. The framing codec (R100 to R110): the values of `Crc16` and what it tells apart, the answers of `Decode` in the
order of its checks, and what becomes of a packet that `Encode` has no meaning for. -/

namespace Sys2Proof.Machine

/-! `Crc16` tells two sequences apart that differ in one byte: each step of it is injective. -/

/-- The bit that one step shifts out comes back in at the bottom: R100's polynomial is odd. -/
theorem crcBit_getLsbD_zero (c : U16) : (crcBit c).getLsbD 0 = c.msb := by
  unfold crcBit
  split <;> simp_all

theorem eq_of_msb_eq_of_shiftLeft_one_eq {c d : U16} (hm : c.msb = d.msb) (hs : c <<< 1 = d <<< 1) : c = d := by
  apply BitVec.eq_of_getLsbD_eq
  intro i hi
  by_cases htop : i = 15
  · simpa only [htop, BitVec.msb_eq_getLsbD_last] using hm
  · have hbit : (c <<< 1).getLsbD (i + 1) = (d <<< 1).getLsbD (i + 1) := by rw [hs]
    simpa only [BitVec.getLsbD_shiftLeft, show i + 1 < 16 by omega, show ¬ i + 1 < 1 by omega, decide_true, decide_false,
      Bool.not_false, Bool.true_and, Nat.add_sub_cancel] using hbit

theorem crcBit_injective : Function.Injective crcBit := by
  intro c d h
  have hmsb : c.msb = d.msb := by rw [← crcBit_getLsbD_zero, h, crcBit_getLsbD_zero]
  have hshift : c <<< 1 = d <<< 1 := by
    unfold crcBit at h
    rw [hmsb] at h
    split at h
    · exact (BitVec.xor_left_inj _).mp h
    · exact h
  exact eq_of_msb_eq_of_shiftLeft_one_eq hmsb hshift

theorem crcBits_injective (n : Nat) : Function.Injective (crcBits n) := by
  induction n with
  | zero => exact Function.injective_id
  | succ n ih => exact ih.comp crcBit_injective

theorem crcByte_left_injective (b : Byte) : Function.Injective fun c => crcByte c b :=
  fun _ _ h => (BitVec.xor_left_inj _).mp (crcBits_injective 8 h)

theorem crcByte_injective (c : U16) : Function.Injective (crcByte c) := by
  intro x y h
  have hshift : x.zeroExtend 16 <<< 8 = y.zeroExtend 16 <<< 8 := (BitVec.xor_right_inj _).mp (crcBits_injective 8 h)
  apply BitVec.eq_of_getLsbD_eq
  intro i hi
  have hbit : (x.zeroExtend 16 <<< 8).getLsbD (i + 8) = (y.zeroExtend 16 <<< 8).getLsbD (i + 8) := by rw [hshift]
  simpa [show i + 8 < 16 by omega, show i < 16 by omega] using hbit

theorem foldl_crcByte_injective (l : List Byte) : Function.Injective fun c => l.foldl crcByte c := by
  induction l with
  | nil => exact Function.injective_id
  | cons b l ih => exact ih.comp (crcByte_left_injective b)

/-- With all other bytes fixed, the checksum determines any one byte. -/
theorem crc16_append_cons_injective (l r : List Byte) : Function.Injective fun b => crc16 (l ++ b :: r) := by
  intro x y h
  simp only [crc16_append, List.foldl_cons] at h
  exact crcByte_injective _ (foldl_crcByte_injective r h)

/-! A byte sequence with one bit inverted (R110). -/

theorem xor_shiftLeft_ne (b : Byte) {j : Nat} (hj : j < 8) : b ^^^ (1#8 <<< j) ≠ b := by
  intro h
  have hbit : (b ^^^ (1#8 <<< j)).getLsbD j = b.getLsbD j := by rw [h]
  simp [hj] at hbit

@[simp] theorem flipBit_length (b : List Byte) (k : Nat) : (flipBit b k).length = b.length := List.length_modify ..

theorem take_flipBit (b : List Byte) (k n : Nat) : (flipBit b k).take n = flipBit (b.take n) k := List.take_modify ..

theorem flipBit_of_length_le {b : List Byte} {k : Nat} (h : b.length ≤ k / 8) : flipBit b k = b := List.modify_eq_self h

theorem getD_flipBit_of_ne (b : List Byte) {k i : Nat} (h : k / 8 ≠ i) : (flipBit b k).getD i 0 = b.getD i 0 := by
  simp only [flipBit, List.getD_eq_getElem?_getD, List.getElem?_modify_ne _ _ h]

theorem getD_flipBit_ne {b : List Byte} {k : Nat} (h : k / 8 < b.length) :
    (flipBit b k).getD (k / 8) 0 ≠ b.getD (k / 8) 0 := by
  have hflip : (flipBit b k).getD (k / 8) 0 = b[k / 8] ^^^ (1#8 <<< (k % 8)) := by simp [flipBit, h]
  rw [hflip, List.getD_eq_getElem _ _ h]
  exact xor_shiftLeft_ne _ (Nat.mod_lt _ (by decide))

/-- `le16` determines the two bytes it reads. -/
theorem getD_eq_of_le16_eq {a b : List Byte} {i j : Nat} (h : le16 a i = le16 b j) :
    a.getD i 0 = b.getD j 0 ∧ a.getD (i + 1) 0 = b.getD (j + 1) 0 := by
  unfold le16 at h
  refine ⟨?_, ?_⟩
  · simpa only [BitVec.extractLsb'_append_eq_right] using congrArg (BitVec.extractLsb' 0 8) h
  · simpa only [BitVec.extractLsb'_append_eq_left] using congrArg (BitVec.extractLsb' 8 8) h

theorem le16_flipBit_of_lt (b : List Byte) {k i : Nat} (h : k / 8 < i) : le16 (flipBit b k) i = le16 b i :=
  le16_eq _ _ _ _ (getD_flipBit_of_ne b (by omega)) (getD_flipBit_of_ne b (by omega))

theorem le16_flipBit_ne {b : List Byte} {k i : Nat} (hk : k / 8 < b.length) (hi : k / 8 = i ∨ k / 8 = i + 1) :
    le16 (flipBit b k) i ≠ le16 b i := by
  intro h
  obtain ⟨hlow, hhigh⟩ := getD_eq_of_le16_eq h
  have hbyte : (flipBit b k).getD (k / 8) 0 ≠ b.getD (k / 8) 0 := getD_flipBit_ne hk
  obtain hi | hi := hi <;> rw [hi] at hbyte
  · exact hbyte hlow
  · exact hbyte hhigh

theorem crc16_flipBit_ne {b : List Byte} {k : Nat} (hk : k / 8 < b.length) : crc16 (flipBit b k) ≠ crc16 b := by
  have hflip : flipBit b k = b.take (k / 8) ++ (b[k / 8] ^^^ (1#8 <<< (k % 8))) :: b.drop (k / 8 + 1) :=
    List.modify_eq_take_cons_drop hk
  have hb : crc16 b = crc16 (b.take (k / 8) ++ b[k / 8] :: b.drop (k / 8 + 1)) := by
    rw [← List.drop_eq_getElem_cons hk, List.take_append_drop]
  rw [hflip, hb]
  exact (crc16_append_cons_injective _ _).ne (xor_shiftLeft_ne _ (Nat.mod_lt _ (by decide)))

/-- R110, as a fact about checksums: a bit inverted before the checksum changes what the checksum should be, and a bit
inverted in the checksum changes what it is. -/
theorem crc16_ne_le16_of_flipBit {b : List Byte} {k n : Nat} (hlen : b.length = n + checksumSize)
    (hsum : crc16 (b.take n) = le16 b n) (hk : k / 8 < b.length) :
    crc16 ((flipBit b k).take n) ≠ le16 (flipBit b k) n := by
  rw [checksumSize_eq] at hlen
  have htake : (b.take n).length = n := List.length_take_of_le (by omega)
  rw [take_flipBit]
  by_cases hbefore : k / 8 < n
  · rw [le16_flipBit_of_lt b hbefore, ← hsum]
    exact crc16_flipBit_ne (by omega)
  · rw [flipBit_of_length_le (by omega), hsum]
    exact (le16_flipBit_ne hk (by omega)).symm

/-! What `Decode` answers, by the first of its checks that fails (R104 to R107). -/

theorem decodeFrame_of_length_lt {c : Config} {b : List Byte} (hlen : b.length < minFrameSize) :
    decodeFrame c b = .frameInvalid := if_pos hlen

theorem decodeFrame_of_checksum_ne {c : Config} {b : List Byte} (hlen : minFrameSize ≤ b.length)
    (hsum : crc16 (b.take (b.length - checksumSize)) ≠ le16 b (b.length - checksumSize)) :
    decodeFrame c b = .checksumMismatch := by
  rw [decodeFrame, if_neg (Nat.not_lt.mpr hlen), if_pos hsum]

section

variable {c : Config} {b : List Byte} (hlen : minFrameSize ≤ b.length)
  (hsum : crc16 (b.take (b.length - checksumSize)) = le16 b (b.length - checksumSize))
include hlen hsum

theorem decodeFrame_of_size_invalid
    (hsize : (le16 b 3).toNat ≠ b.length - minFrameSize ∨ c.maxPayload < (le16 b 3).toNat) :
    decodeFrame c b = .frameInvalid := by
  rw [decodeFrame, if_neg (Nat.not_lt.mpr hlen), if_neg (not_not_intro hsum), if_pos hsize]

theorem decodeFrame_of_type_invalid (htype : typeOfCode c (b.getD 2 0) = none) : decodeFrame c b = .frameInvalid := by
  rw [decodeFrame, if_neg (Nat.not_lt.mpr hlen), if_neg (not_not_intro hsum), htype]
  exact ite_self _

theorem decodeFrame_of_fields_valid {t : FrameType} (hsize : (le16 b 3).toNat = b.length - minFrameSize)
    (hmax : (le16 b 3).toNat ≤ c.maxPayload) (htype : typeOfCode c (b.getD 2 0) = some t) :
    decodeFrame c b = .ok (headerAt t b) ((b.take (b.length - checksumSize)).drop headerSize) := by
  rw [decodeFrame, if_neg (Nat.not_lt.mpr hlen), if_neg (not_not_intro hsum), if_neg (by omega), htype]

end

/-- A byte that is no type's code is read as no type (R77). -/
theorem typeOfCode_eq_none {c : Config} {b : Byte} (h : ∀ t, b ≠ typeCode c t) : typeOfCode c b = none :=
  Option.eq_none_iff_forall_ne_some.mpr fun t ht => h t (typeCode_of_typeOfCode c b t ht)

/-- R110: every single inverted bit of a frame is caught by the checksum, whatever the header and the payload. -/
theorem decodeFrame_flipBit_frameBytes {c : Config} {h : Header} {p : List Byte} {k : Nat}
    (hk : k / 8 < (frameBytes c h p).length) : decodeFrame c (flipBit (frameBytes c h p) k) = .checksumMismatch := by
  have hlen : (frameBytes c h p).length = minFrameSize + p.length := frameBytes_length c h p
  have hsum : crc16 ((frameBytes c h p).take ((frameBytes c h p).length - checksumSize)) =
      le16 (frameBytes c h p) ((frameBytes c h p).length - checksumSize) := by
    rw [frameBytes_take, le16_frameBytes_checksum]
  apply decodeFrame_of_checksum_ne <;> rw [flipBit_length]
  · omega
  · exact crc16_ne_le16_of_flipBit (by rw [hlen, minFrameSize_eq, checksumSize_eq]; omega) hsum hk

/-! `PROCESS` on a packet outside the precondition of `Encode` (R101, U4). -/

theorem encodeFrame_eq_none {c : Config} {h : Header} {p : List Byte}
    (hp : h.payloadSize.toNat ≠ p.length ∨ c.maxPayload < p.length) : encodeFrame c h p = none := by
  refine Option.eq_none_iff_forall_ne_some.mpr fun b hb => ?_
  obtain ⟨⟨hsize, hmax⟩, -⟩ := (encodeFrame_eq_some c h p b).mp hb
  omega

/-- Step (a) of `PROCESS` leaves an occupied slot alone (R161). -/
theorem fillCurrent_of_cur_eq_some {s : State} {e : PendingPacket} (h : s.cur = some e) : fillCurrent s = s := by
  obtain ⟨_, _, hnone, -⟩ | ⟨-, hsame⟩ := fillCurrent_cases s
  · rw [h] at hnone
    cases hnone
  · exact hsame

theorem exec_process_of_encodeFrame_eq_none {s : State} {e : PendingPacket} (hcur : s.cur = some e)
    (henc : encodeFrame s.cfg e.header e.payload = none) : exec .process s = .refused .encodeOutsidePrecondition := by
  have hfill : fillCurrent (advanceTick s) = advanceTick s := fillCurrent_of_cur_eq_some (s := advanceTick s) hcur
  have hframe : currentFrame (advanceTick s) = some none := by simp [currentFrame, hcur, henc]
  rw [exec_process, execProcess_eq, hfill, hframe]

end Sys2Proof.Machine

namespace Sys2Proof.Proofs

open Sys2Proof.Machine

/-- Settles O2: a valid configuration has an injective `TypeCode`, so `Decode` reads back what `Encode` answers. -/
theorem frameRoundTrip : Obligations.FrameRoundTrip := by
  intro c h p hc hsize hp
  obtain ⟨-, -, -, -, -, -, -, hinj⟩ := hc
  exact ⟨frameBytes c h p, (encodeFrame_eq_some c h p _).mpr ⟨⟨hsize, hp⟩, rfl⟩, frameBytes_length c h p,
    decodeFrame_frameBytes hinj hsize hp⟩

/-- Settles O4: `Crc16` is injective in each single byte. -/
theorem singleBitFlipIsDetected : Obligations.SingleBitFlipIsDetected := by
  intro c h p k hk
  refine decodeFrame_flipBit_frameBytes ?_
  rw [frameBytes_length, minFrameSize_eq]
  omega

/-- Settles O1, by running the model's `Crc16` on the seven vectors. -/
theorem crc16KnownValues : Obligations.Crc16KnownValues := by
  unfold Obligations.Crc16KnownValues
  decide +kernel

/-- Settles O5: one lemma about `Decode` for each check that fails, and one for none. -/
theorem decodeChecksInOrder : Obligations.DecodeChecksInOrder := by
  refine fun c b => ⟨decodeFrame_of_length_lt, decodeFrame_of_checksum_ne, ?fields, ?ok⟩
  case fields =>
    rintro hlen hsum (hsize | htype | hmax)
    · exact decodeFrame_of_size_invalid hlen hsum (.inl hsize)
    · exact decodeFrame_of_type_invalid hlen hsum (typeOfCode_eq_none htype)
    · exact decodeFrame_of_size_invalid hlen hsum (.inr hmax)
  case ok =>
    intro t hinj hlen hsum hsize hmax htype
    have hcode : typeOfCode c (b.getD 2 0) = some t := by rw [htype, typeOfCode_typeCode c hinj]
    exact decodeFrame_of_fields_valid hlen hsum hsize hmax hcode

/-- Settles O35: the packet stays in the current slot, and there is no frame to offer for it. -/
theorem processRefusesUnencodablePacket : Obligations.ProcessRefusesUnencodablePacket :=
  fun _ _ hcur hp => exec_process_of_encodeFrame_eq_none hcur (encodeFrame_eq_none hp)

end Sys2Proof.Proofs
end

section
/-! PROOF. The inbound assembler (R121 to R134): what a step of the scan does with each candidate, the scan as the
repetition of its step, the feeding of a whole frame's bytes, and that nothing inbound reads what a command returned. -/

namespace Sys2Proof.Machine

/-! What a valid configuration says of frame sizes (R8, R9, R75). -/

theorem typeCodes_injective_of_valid {c : Config} (hc : c.Valid) : c.typeCodes.Injective := by
  obtain ⟨-, -, -, -, -, -, -, hinj⟩ := hc
  exact hinj

/-- A frame of the largest payload is a frame of `MaxPacketSize`, and the ring has room for it (R283). -/
theorem frame_size_le_of_valid {c : Config} (hc : c.Valid) {n : Nat} (hn : n ≤ c.maxPayload) :
    15 + n ≤ c.maxPacketSize ∧ 15 + n ≤ c.rxBufferSize := by
  obtain ⟨hmin, -, -, -, -, -, hring, -⟩ := hc
  rw [maxPayload_eq] at hn
  omega

/-- A ring that waits is at least one byte short of a frame of the largest size, and so of its capacity (R283). -/
theorem length_of_ringOk {s : State} (hc : s.cfg.Valid) (hr : s.RingOk) :
    s.rx.length ≤ s.cfg.maxPacketSize - 1 ∧ s.rx.length < s.cfg.rxBufferSize := by
  obtain hshort | ⟨hps, hpart⟩ := (candidate_wait_iff _ _).1 hr
  · have := frame_size_le_of_valid hc (Nat.zero_le _)
    omega
  · have := frame_size_le_of_valid hc hps
    omega

/-! The operations on the ring, the queue and `DELIVER`, as the next state whole. -/

theorem rxAppend_of_room (b : Byte) {s : State} (h : s.rx.length < s.cfg.rxBufferSize) :
    rxAppend b s = { s with rx := s.rx ++ [b] } := if_pos h

theorem rxConsume_of_length_le {s : State} {b : List Byte} {n : Nat} (hrx : s.rx = []) (h : b.length ≤ n) :
    rxConsume n { s with rx := b } = s := by
  simp only [rxConsume, List.drop_eq_nil_of_le h, ← hrx]

/-- A reply leaves the queue of R166 and R167, and nothing else changed. -/
theorem reply_eq_queueAfterReply (t : ReplyType) (pn : U16) (s : State) :
    reply t pn s = { s with txq := queueAfterReply t pn s } := by
  simp only [reply_eq, queueAfterReply, txHasRoom_iff]

theorem exec_singleData (pn : U16) (sid : U32) (tf fi : U16) (p : List Byte) (s : State) :
    exec (.singleData pn sid tf fi p) s = .next (reply (replyTo (deliverAnswer s)) pn (callDeliver sid fi tf p s)) := rfl

theorem exec_singleNoAck (pn : U16) (sid : U32) (tf fi : U16) (p : List Byte) (s : State) :
    exec (.singleNoAck pn sid tf fi p) s = .next (callDeliver sid fi tf p s) := rfl

/-! A step of the scan, for each candidate (R125 to R128). -/

theorem isDataCode_iff (c : Config) (b : Byte) :
    isDataCode c b = true ↔ b = typeCode c .singleData ∨ b = typeCode c .fragmentData := by
  simp [isDataCode]

theorem candidate_of_oversize {c : Config} {rx : List Byte} (hlen : 13 ≤ rx.length)
    (hps : c.maxPayload < (le16 rx 3).toNat) : candidate c rx = .oversize := by
  rw [candidate, headerSize_eq, if_neg (by omega), if_pos hps]

section
variable {s : State}

theorem scanStep_of_oversize (hc : candidate s.cfg s.rx = .oversize) : scanStep s = some (rxConsume 1 s) := by
  simp only [scanStep, hc, raise_frameInvalid]

theorem scanStep_of_good {n : Nat} {h : Header} {p : List Byte} (hc : candidate s.cfg s.rx = .good n h p) :
    scanStep s = some (dispatchFrame h p (rxConsume n s)) := by
  simp only [scanStep, hc]

theorem scanStep_of_badData {n : Nat} {pn : U16} (hc : candidate s.cfg s.rx = .badData n pn) :
    scanStep s = some (reply .nack pn (rxConsume n s)) := by
  simp only [scanStep, hc, raise_checksumMismatchData]

theorem scanStep_of_badOther (hc : candidate s.cfg s.rx = .badOther) : scanStep s = some (rxConsume 1 s) := by
  simp only [scanStep, hc, raise_checksumMismatchOther]

theorem scanStep_of_invalid (hc : candidate s.cfg s.rx = .invalid) : scanStep s = some (rxConsume 1 s) := by
  simp only [scanStep, hc, raise_frameInvalid]

end

/-! The scan is its step repeated until it stops (R123). -/

/-- A step of the scan that goes on takes a byte or more from the ring. -/
theorem scanStep_length_lt {s t : State} (h : scanStep s = some t) : t.rx.length < s.rx.length := by
  obtain ⟨n, hn, hpos, rfl | ⟨hd, p, rfl⟩ | ⟨pn, rfl⟩⟩ := scanStep_cases h
  all_goals have hdrop : (s.rx.drop n).length < s.rx.length := by rw [List.length_drop]; omega
  · exact hdrop
  · rwa [(dispatchFrame_frame hd p _).rx]
  · rwa [reply_rx]

theorem scanLoop_of_none {s : State} (h : scanStep s = none) (n : Nat) : scanLoop n s = s := by
  cases n with
  | zero => rfl
  | succ n => simp only [scanLoop, h]

theorem scanLoop_succ_of_some {s t : State} (h : scanStep s = some t) (n : Nat) : scanLoop (n + 1) s = scanLoop n t := by
  simp only [scanLoop, h]

/-- A bound of the ring's length or more is never what ends the loop. -/
theorem scanLoop_eq_scanLoop (n : Nat) : ∀ (m : Nat) (s : State), s.rx.length ≤ n → s.rx.length ≤ m →
    scanLoop n s = scanLoop m s := by
  induction n with
  | zero =>
    intro m s hn _
    have hstop : scanStep s = none := (scanStep_eq_none_iff s).2 ((candidate_wait_iff _ _).2 (.inl (by omega)))
    rw [scanLoop_of_none hstop, scanLoop_of_none hstop]
  | succ n ih =>
    intro m s hn hm
    cases hs : scanStep s with
    | none => rw [scanLoop_of_none hs, scanLoop_of_none hs]
    | some t =>
      have hlt := scanStep_length_lt hs
      obtain ⟨m, rfl⟩ : ∃ k, m = k + 1 := ⟨m - 1, by omega⟩
      rw [scanLoop_succ_of_some hs, scanLoop_succ_of_some hs]
      exact ih m t (by omega) (by omega)

theorem scan_of_ringOk {s : State} (h : s.RingOk) : scan s = s := scanLoop_of_none ((scanStep_eq_none_iff s).2 h) _

theorem scan_of_scanStep {s t : State} (h : scanStep s = some t) : scan s = scan t := by
  have hlt := scanStep_length_lt h
  calc scan s = scanLoop (s.rx.length + 1) s := scanLoop_eq_scanLoop _ _ s le_rfl (by omega)
    _ = scanLoop s.rx.length t := scanLoop_succ_of_some h _
    _ = scan t := scanLoop_eq_scanLoop _ _ t (by omega) le_rfl

theorem scan_ringOk (s : State) : (scan s).RingOk := scanLoop_ringOk _ s le_rfl

@[simp] theorem scan_cfg (s : State) : (scan s).cfg = s.cfg :=
  (scanLoop_induction (P := InboundFrame s) (fun _ _ h ht => h.trans (scanStep_inboundFrame ht)) _ s
    (ReceptionFrame.refl s)).cfg

theorem ringOk_of_rx_eq_nil {s : State} (h : s.rx = []) : s.RingOk := (candidate_wait_iff _ _).2 (.inl (by simp [h]))

/-- After every instruction from a ring that waits, the ring waits (R131): the outbound commands leave it alone. -/
theorem exec_ringOk {i : Instr} {s t : State} (hs : s.RingOk) (h : exec i s = .next t) : t.RingOk := by
  rcases instr_cases i with hi | ⟨p, mr, ron, rfl⟩ | ⟨p, rfl⟩ | rfl
  · exact exec_inbound_ringOk hi hs h
  · cases h
    rcases sendData_enqueued p mr ron s with ⟨es, he⟩ | ⟨-, es, he⟩
    · exact ringOk_of_eq hs he.cfg he.rx
    · exact ringOk_of_eq hs he.cfg he.rx
  · cases h
    obtain ⟨es, he⟩ := sendUnacknowledged_enqueued p s
    exact ringOk_of_eq hs he.cfg he.rx
  · have hf := exec_process_frame h
    exact ringOk_of_eq hs hf.cfg hf.rx

/-! The feeding of bytes (R121, R122). -/

/-- A byte that leaves the ring waiting is appended, and that is all (R124). -/
theorem feedByte_of_wait {s : State} {b : Byte} (hroom : s.rx.length < s.cfg.rxBufferSize)
    (hwait : candidate s.cfg (s.rx ++ [b]) = .wait) : feedByte b s = { s with rx := s.rx ++ [b] } := by
  rw [feedByte, rxAppend_of_room b hroom]
  exact scan_of_ringOk hwait

theorem feedBytes_append_singleton (bs : List Byte) (b : Byte) (s : State) :
    feedBytes (bs ++ [b]) s = feedByte b (feedBytes bs s) := List.foldl_concat ..

/-- Bytes fed to an empty ring gather there while it waits, and are scanned together with the last of them. -/
theorem feedBytes_eq_scan {s : State} (hrx : s.rx = []) (b : List Byte) (hroom : b.length ≤ s.cfg.rxBufferSize)
    (hwait : ∀ n < b.length, candidate s.cfg (b.take n) = .wait) : feedBytes b s = scan { s with rx := b } := by
  induction b using List.reverseRecOn with
  | nil =>
    have hsame : { s with rx := [] } = s := by rw [← hrx]
    rw [hsame]
    exact (scan_of_ringOk (ringOk_of_rx_eq_nil hrx)).symm
  | append_singleton bs b ih =>
    rw [List.length_append, List.length_singleton] at hroom hwait
    have hgather : feedBytes bs s = { s with rx := bs } := by
      rw [ih (by omega) fun n hn => by simpa [List.take_append_of_le_length hn.le] using hwait n (by omega)]
      exact scan_of_ringOk (by simpa using hwait bs.length (by omega))
    rw [feedBytes_append_singleton, hgather, feedByte]
    exact congrArg scan (rxAppend_of_room b (by simpa using hroom))

/-- The ring waits on every part of a candidate that stops short of its declared size (R124). -/
theorem candidate_take {c : Config} {b : List Byte} {n : Nat} (hps : (le16 b 3).toNat ≤ c.maxPayload)
    (hn : n < 15 + (le16 b 3).toNat) : candidate c (b.take n) = .wait := by
  rw [candidate_wait_iff]
  have hlen : (b.take n).length ≤ n := List.length_take_le n b
  by_cases hshort : n < 13
  · exact .inl (by omega)
  · rw [le16_take b 3 n (by omega)]
    exact .inr ⟨hps, by omega⟩

/-- The bytes of one whole candidate, fed to an empty ring, are worth the one step of the scan that takes them all. -/
theorem feedBytes_of_whole {s t : State} {b : List Byte} (hc : s.cfg.Valid) (hrx : s.rx = [])
    (hps : (le16 b 3).toNat ≤ s.cfg.maxPayload) (hlen : b.length = 15 + (le16 b 3).toNat)
    (hstep : scanStep { s with rx := b } = some t) (ht : t.rx = []) : feedBytes b s = t := by
  have hroom : b.length ≤ s.cfg.rxBufferSize := hlen ▸ (frame_size_le_of_valid hc hps).2
  calc feedBytes b s = scan { s with rx := b } := feedBytes_eq_scan hrx b hroom fun n hn => candidate_take hps (by omega)
    _ = scan t := scan_of_scanStep hstep
    _ = t := scan_of_ringOk (ringOk_of_rx_eq_nil ht)

/-! The frame of an instruction, and a corrupt one, at the head of the ring. -/

/-- The bytes of a well-formed frame instruction are a frame within the precondition of `Encode` (R101). -/
theorem exists_frame_of_encode {c : Config} (hc : c.Valid) {i : Instr} {b : List Byte} (hw : i.wf c = true)
    (he : encode c i = .frame b) :
    ∃ h p, i = instrOfFrame h p ∧ h.payloadSize.toNat = p.length ∧ p.length ≤ c.maxPayload ∧ b = frameBytes c h p := by
  rcases instr_cases i with (⟨h, p, rfl⟩ | ⟨_, rfl⟩ | ⟨_, rfl⟩) | ⟨_, _, _, rfl⟩ | ⟨_, rfl⟩ | rfl
  case inl.inl =>
    have hp : p.length ≤ c.maxPayload := by simpa [wf_instrOfFrame] using hw
    rw [encode_instrOfFrame] at he
    cases he
    have hsize : (BitVec.ofNat 16 p.length).toNat = p.length := Nat.mod_eq_of_lt (payload_length_lt hc hp)
    exact ⟨{ h with payloadSize := BitVec.ofNat 16 p.length }, p, rfl, hsize, hp, rfl⟩
  all_goals cases he

theorem le16_frameBytes_append_payloadSize (c : Config) (h : Header) (p rest : List Byte) :
    le16 (frameBytes c h p ++ rest) 3 = h.payloadSize := by
  rw [frameBytes_eq, List.append_assoc, le16_headerBytes_payloadSize]

/-- A frame at the head of the ring is a good candidate (R126). -/
theorem candidate_frameBytes_append {c : Config} {h : Header} {p : List Byte} (rest : List Byte)
    (hinj : c.typeCodes.Injective) (hsize : h.payloadSize.toNat = p.length) (hp : p.length ≤ c.maxPayload) :
    candidate c (frameBytes c h p ++ rest) = .good (15 + p.length) h p := by
  have hps : (le16 (frameBytes c h p ++ rest) 3).toNat = p.length := by rw [le16_frameBytes_append_payloadSize, hsize]
  have hlen : (frameBytes c h p).length = 15 + p.length := frameBytes_length c h p
  have htake : (frameBytes c h p ++ rest).take (15 + p.length) = frameBytes c h p := List.take_left' hlen
  rw [candidate_whole _ _ (by omega) (by rw [List.length_append]; omega), hps, htake,
    decodeFrame_frameBytes hinj hsize hp]

/-- The bytes before an inverted bit are the frame's own. -/
theorem le16_flipBit_of_gt (b : List Byte) {k i : Nat} (h : i + 1 < k / 8) : le16 (flipBit b k) i = le16 b i :=
  le16_eq _ _ _ _ (getD_flipBit_of_ne b (by omega)) (getD_flipBit_of_ne b (by omega))

theorem length_flipBit_frameBytes (c : Config) (h : Header) (p : List Byte) (k : Nat) :
    (flipBit (frameBytes c h p) k).length = 15 + p.length := (flipBit_length _ _).trans (frameBytes_length c h p)

/-- A data-type frame with a bit inverted after its header is a bad candidate that claims the frame's number (R110,
R127). -/
theorem candidate_flipBit_frameBytes {c : Config} {h : Header} {p : List Byte} {k : Nat}
    (hsize : h.payloadSize.toNat = p.length) (hp : p.length ≤ c.maxPayload)
    (htype : h.type = .singleData ∨ h.type = .fragmentData) (hlow : 8 * 13 ≤ k) (hhigh : k < 8 * (15 + p.length)) :
    candidate c (flipBit (frameBytes c h p) k) = .badData (15 + p.length) h.packetNumber := by
  have hlen := length_flipBit_frameBytes c h p k
  have hps : (le16 (flipBit (frameBytes c h p) k) 3).toNat = p.length := by
    rw [le16_flipBit_of_gt _ (by omega), frameBytes_eq, le16_headerBytes_payloadSize, hsize]
  have hnumber : le16 (flipBit (frameBytes c h p) k) 0 = h.packetNumber := by
    rw [le16_flipBit_of_gt _ (by omega), frameBytes_eq, le16_headerBytes_packetNumber]
  have hcode : isDataCode c ((flipBit (frameBytes c h p) k).getD 2 0) = true := by
    rw [getD_flipBit_of_ne _ (by omega), frameBytes_eq, getD_headerBytes_type, isDataCode_iff]
    exact htype.imp (congrArg _) (congrArg _)
  have hbad : decodeFrame c (flipBit (frameBytes c h p) k) = .checksumMismatch :=
    decodeFrame_flipBit_frameBytes (by rw [frameBytes_length, minFrameSize_eq]; omega)
  rw [candidate_whole _ _ (by omega) (by omega), hps, List.take_of_length_le hlen.le, hbad, hnumber]
  exact if_pos hcode

theorem fetch_of_good {s : State} {n : Nat} {h : Header} {p : List Byte} (hc : candidate s.cfg s.rx = .good n h p) :
    fetch s = .run (instrOfFrame h p) (rxConsume n s) := by
  simp only [fetch, hc]

/-! What a command last returned is read by nothing inbound, and kept (log 7). -/

section
variable (r : Option SendResult)

theorem reply_commute_returnToHost (t : ReplyType) (pn : U16) : Function.Commute (reply t pn) (returnToHost r) :=
  fun s => by rw [reply_eq, reply_eq]; rfl

theorem openStream_commute_returnToHost (sid : U32) (tf : U16) :
    Function.Commute (openStream sid tf) (returnToHost r) := by
  intro s
  have hl : lookupStream sid (returnToHost r s) = lookupStream sid s := rfl
  unfold openStream allocateStream
  rw [hl, returnToHost_streams]
  cases lookupStream sid s with
  | some _ => rfl
  | none => cases s.streams.findIdx? fun x => x.completed <;> rfl

theorem deliverRefreshed_commute_returnToHost (k : Nat) (pn : U16) (sid : U32) (tf fi : U16) (p : List Byte) :
    Function.Commute (deliverRefreshed k pn sid tf fi p) (returnToHost r) := by
  intro s
  have hr (t : ReplyType) : reply t pn (callDeliver sid fi tf p (returnToHost r s)) =
      returnToHost r (reply t pn (callDeliver sid fi tf p s)) :=
    reply_commute_returnToHost r t pn (callDeliver sid fi tf p s)
  have hd : deliverAnswer (returnToHost r s) = deliverAnswer s := rfl
  simp only [deliverRefreshed, hr, hd]
  split
  · split <;> rfl
  · rfl

theorem receiveFragment_commute_returnToHost (pn : U16) (sid : U32) (tf fi : U16) (p : List Byte) :
    Function.Commute (receiveFragment pn sid tf fi p) (returnToHost r) := by
  intro s
  have ho : openStream sid tf (returnToHost r s) = returnToHost r (openStream sid tf s) :=
    openStream_commute_returnToHost r sid tf s
  have hk : streamSlotFor sid (returnToHost r s) = streamSlotFor sid s := rfl
  simp only [receiveFragment, ho, hk, slotAt_returnToHost]
  split
  · split
    · exact deliverRefreshed_commute_returnToHost r _ pn sid tf fi p (refreshSlot _ _)
    · exact reply_commute_returnToHost r .nack pn _
  · exact reply_commute_returnToHost r .nack pn s

theorem onAckOrNack_commute_returnToHost (isNack : Bool) (pn : U16) :
    Function.Commute (onAckOrNack isNack pn) (returnToHost r) := by
  intro s
  cases isNack with
  | false => simp only [onAckOrNack, matchEntries_ack]; rfl
  | true => simp only [onAckOrNack, matchEntries_nack]; rfl

theorem dispatchFrame_commute_returnToHost (h : Header) (p : List Byte) :
    Function.Commute (dispatchFrame h p) (returnToHost r) := by
  unfold dispatchFrame
  cases h.type with
  | singleData =>
    exact fun s => reply_commute_returnToHost r (replyTo (deliverAnswer s)) h.packetNumber (callDeliver _ _ _ p s)
  | singleNoAck => exact fun _ => rfl
  | fragmentData => exact receiveFragment_commute_returnToHost r _ _ _ _ _
  | ack => exact onAckOrNack_commute_returnToHost r false _
  | nack => exact onAckOrNack_commute_returnToHost r true _

theorem scanStep_returnToHost (s : State) : scanStep (returnToHost r s) = (scanStep s).map (returnToHost r) := by
  unfold scanStep
  rw [returnToHost_cfg, returnToHost_rx]
  cases candidate s.cfg s.rx with
  | good n h p => exact congrArg some (dispatchFrame_commute_returnToHost r h p (rxConsume n s))
  | badData n pn => exact congrArg some (reply_commute_returnToHost r .nack pn (rxConsume n s))
  | wait | oversize | badOther | invalid => rfl

theorem scanLoop_commute_returnToHost (n : Nat) : Function.Commute (scanLoop n) (returnToHost r) := by
  induction n with
  | zero => exact fun _ => rfl
  | succ n ih =>
    intro s
    have hs := scanStep_returnToHost r s
    cases ht : scanStep s with
    | none =>
      rw [ht] at hs
      rw [scanLoop_of_none hs, scanLoop_of_none ht]
    | some t =>
      rw [ht] at hs
      rw [scanLoop_succ_of_some hs, scanLoop_succ_of_some ht]
      exact ih t

theorem feedByte_commute_returnToHost (b : Byte) : Function.Commute (feedByte b) (returnToHost r) := by
  intro s
  have ha : rxAppend b (returnToHost r s) = returnToHost r (rxAppend b s) := by rw [rxAppend_eq, rxAppend_eq]; rfl
  rw [feedByte, feedByte, ha]
  exact scanLoop_commute_returnToHost r _ (rxAppend b s)

theorem feedBytes_commute_returnToHost (bs : List Byte) : Function.Commute (feedBytes bs) (returnToHost r) := by
  induction bs with
  | nil => exact fun _ => rfl
  | cons b bs ih => exact ih.comp_left (feedByte_commute_returnToHost r b)

end

end Sys2Proof.Machine

namespace Sys2Proof.Proofs

open Sys2Proof.Machine

/-- Settles O9: after the append the ring waits, so the scan stops at once. -/
theorem feedWaitsForWholeFrame : Obligations.FeedWaitsForWholeFrame := by
  intro s b hroom hpart
  have hwait : candidate s.cfg (s.rx ++ [b]) = .wait := (candidate_wait_iff _ _).2 (by simpa using hpart)
  rw [exec_feed, feedByte_of_wait hroom hwait]
  rfl

/-- Settles O11: every step that goes on takes a byte, so the bound on the steps does not run out. -/
theorem scanRepeatsUntilItStops : Obligations.ScanRepeatsUntilItStops := fun s =>
  ⟨fun h => scan_of_ringOk ((scanStep_eq_none_iff s).1 h), fun _ h => ⟨scanStep_length_lt h, scan_of_scanStep h⟩⟩

/-- Settles O12: a ring that waits is short of a header or of a frame that fits the ring, and every command leaves
one. -/
theorem scanLeavesNoWholeCandidate : Obligations.ScanLeavesNoWholeCandidate := by
  refine ⟨fun s hc => ?_, fun i s t _ hc hs h => ?_⟩
  · have hwait : candidate s.cfg (scan s).rx = .wait := by simpa [State.RingOk] using scan_ringOk s
    exact ((candidate_wait_iff _ _).1 hwait).imp_right fun ⟨hps, hpart⟩ =>
      ⟨hps, hpart, (frame_size_le_of_valid hc hps).1⟩
  · have ht : t.RingOk := exec_ringOk hs h
    have hcfg : t.cfg = s.cfg := exec_cfg h
    rw [← hcfg] at hc ⊢
    exact ⟨ht, (candidate_wait_iff _ _).1 ht, length_of_ringOk hc ht⟩

/-- Settles O13: the bytes gather until the frame is whole, and the scan then dispatches it. -/
theorem alignedFrameIsReceivedWhole : Obligations.AlignedFrameIsReceivedWhole := by
  intro s i b hc hrx hw he
  obtain ⟨h, p, rfl, hsize, hp, rfl⟩ := exists_frame_of_encode hc hw he
  have hlen : (frameBytes s.cfg h p).length = 15 + p.length := frameBytes_length s.cfg h p
  have hgood : candidate s.cfg (frameBytes s.cfg h p) = .good (15 + p.length) h p := by
    simpa using candidate_frameBytes_append [] (typeCodes_injective_of_valid hc) hsize hp
  obtain ⟨hn, -, -⟩ := candidate_good _ _ _ _ _ hgood
  have hstep : scanStep { s with rx := frameBytes s.cfg h p } = some (dispatchFrame h p s) := by
    rw [scanStep_of_good hgood, rxConsume_of_length_le hrx hlen.le]
  have hempty : (dispatchFrame h p s).rx = [] := (dispatchFrame_frame h p s).rx.trans hrx
  refine ⟨dispatchFrame h p s, exec_instrOfFrame h p s, hempty, ?_⟩
  rw [exec_dataReceived, feedBytes_of_whole hc hrx (by omega) (by omega) hstep hempty]

/-- Settles O14: the size and the number stand before the inverted bit, and the checksum catches it. -/
theorem corruptDataFrameIsNacked : Obligations.CorruptDataFrameIsNacked := by
  intro s h p k hc hrx hsize hp htype hlow hhigh
  have hlen := length_flipBit_frameBytes s.cfg h p k
  have hbad := candidate_flipBit_frameBytes hsize hp htype hlow hhigh
  obtain ⟨hn, -, -⟩ := candidate_badData _ _ _ _ hbad
  have hstep : scanStep { s with rx := flipBit (frameBytes s.cfg h p) k } = some (reply .nack h.packetNumber s) := by
    rw [scanStep_of_badData hbad, rxConsume_of_length_le hrx hlen.le]
  rw [exec_dataReceived, feedBytes_of_whole hc hrx (by omega) (by omega) hstep (by rw [reply_rx, hrx]),
    reply_eq_queueAfterReply]
  rfl

/-- Settles O15: what `FEED` returns between two bytes is read by neither, and the last return is none again. -/
theorem dataReceivedFeedsInOrder : Obligations.DataReceivedFeedsInOrder := by
  refine fun s => ⟨rfl, fun b bs => ⟨_, _, exec_feed b s, exec_dataReceived bs _, ?_⟩⟩
  rw [feedBytes_commute_returnToHost none bs]
  rfl

/-- Settles O8, candidate by candidate. -/
theorem scanStepOutcomes : Obligations.ScanStepOutcomes := by
  refine fun s hlen => ⟨fun hps => scanStep_of_oversize (candidate_of_oversize hlen hps), fun hps hwhole => ?_⟩
  have hc := candidate_whole s.cfg s.rx hps hwhole
  refine ⟨fun h p hd => ?good, fun hd => ⟨fun htype => ?badData, fun hsingle hfragment => ?badOther⟩, fun hd => ?invalid⟩
  case good =>
    rw [hd] at hc
    exact scanStep_of_good hc
  case badData =>
    rw [hd] at hc
    rw [scanStep_of_badData (hc.trans (if_pos ((isDataCode_iff _ _).2 htype))), reply_eq_queueAfterReply]
    rfl
  case badOther =>
    rw [hd] at hc
    have hcode : ¬ isDataCode s.cfg (s.rx.getD 2 0) = true := fun h => ((isDataCode_iff _ _).1 h).elim hsingle hfragment
    exact scanStep_of_badOther (hc.trans (if_neg hcode))
  case invalid =>
    rw [hd] at hc
    exact scanStep_of_invalid hc

/-- Settles O10: the append and the scan of R122, and nothing returned. -/
theorem feedAppendsThenScans : Obligations.FeedAppendsThenScans := fun s b => exec_feed b s

/-- Settles O16: the call leaves the queue and the tick as they were, so the reply finds the room there was before. -/
theorem singleDataDeliversAndReplies : Obligations.SingleDataDeliversAndReplies := by
  intro pn sid tf fi p s
  rw [exec_singleData, reply_eq_queueAfterReply]
  rfl

/-- Settles O17: the reception is the one call. -/
theorem singleNoAckDeliversOnly : Obligations.SingleNoAckDeliversOnly := exec_singleNoAck

/-- Settles O45: a frame at the ring's head is a good candidate, whatever follows it, and is run with its bytes taken. -/
theorem stepRunsTheFrameAtTheRingHead : Obligations.StepRunsTheFrameAtTheRingHead := by
  intro s i b rest hc hw he hrx
  obtain ⟨h, p, rfl, hsize, hp, rfl⟩ := exists_frame_of_encode hc hw he
  have hgood : candidate s.cfg s.rx = .good (15 + p.length) h p := by
    rw [hrx, candidate_frameBytes_append rest (typeCodes_injective_of_valid hc) hsize hp]
  have hdrop : s.rx.drop (15 + p.length) = rest := hrx ▸ List.drop_left' (frameBytes_length s.cfg h p)
  have htaken : rxConsume (15 + p.length) s = { s with rx := rest } := by rw [rxConsume, hdrop]
  rw [step_of_fetch_run (fetch_of_good hgood), htaken]

end Sys2Proof.Proofs
end

section
/-! PROOF. The two sends (R153, R154, R156): the next state of each outcome, and the splitting of a payload into
fragments (R157). -/

namespace Sys2Proof.Machine

/-! One packet (R153, R156). -/

section
variable {s : State} (t : FrameType) (p : List Byte) (mr : U8) (ron : Bool)

theorem sendOne_of_room (h : s.txq.length < s.cfg.maxQueuedPackets) :
    sendOne t p mr ron s =
      { s with
        txq := s.txq ++ [dataEntry t s.nextPacketNumber p 0 0 0 mr ron s.tick]
        nextPacketNumber := s.nextPacketNumber + 1
        io := { s.io with returned := some { outcome := .success, streamId := 0, fragmentCount := 0 } } } := by
  have hroom : txHasRoom s = true := (txHasRoom_iff s).2 h
  rw [sendOne, if_pos hroom, enqueueData, if_pos hroom]
  rfl

theorem sendOne_of_full (h : s.cfg.maxQueuedPackets ≤ s.txq.length) :
    sendOne t p mr ron s = raise (.bufferFull 0 0) s :=
  if_neg (mt (txHasRoom_iff s).1 (not_lt.2 h))

end

/-! The outcomes of a fragmented send (R154). -/

section
variable {s : State} (p : List Byte) (mr : U8) (ron : Bool)

theorem sendData_of_oversize (h : s.cfg.maxPayload < p.length) : sendData p mr ron s = sendFragmented p mr ron s :=
  if_neg (not_le.2 h)

theorem sendFragmented_of_too_many (h : 65535 < fragmentCount s.cfg p.length) :
    sendFragmented p mr ron s = raise (.bufferFull 0 0) s := if_pos h

theorem sendFragmented_of_le (h : fragmentCount s.cfg p.length ≤ 65535) :
    sendFragmented p mr ron s =
      sendFragments p s.nextStreamId (BitVec.ofNat 16 (fragmentCount s.cfg p.length)) mr ron
        (List.range (fragmentCount s.cfg p.length)) (takeStreamId s) := if_neg (not_lt.2 h)

/-- The first index that finds no room ends the loop of R154. -/
theorem sendFragments_of_full (sid : U32) (n : U16) {is : List Nat} (his : is ≠ [])
    (h : s.cfg.maxQueuedPackets ≤ s.txq.length) :
    sendFragments p sid n mr ron is s = raise (.bufferFull sid n) s := by
  obtain ⟨i, is, rfl⟩ := List.exists_cons_of_ne_nil his
  exact if_neg (mt (txHasRoom_iff s).1 (not_lt.2 h))

/-- The entries of R154 that find room, in index order, and the result. -/
theorem sendFragmented_eq (hq : s.txq.length ≤ s.cfg.maxQueuedPackets) (hn : fragmentCount s.cfg p.length ≤ 65535) :
    let n := fragmentCount s.cfg p.length
    let room := s.cfg.maxQueuedPackets - s.txq.length
    sendFragmented p mr ron s =
      { s with
        txq := s.txq ++ (List.range (min n room)).map (fragmentEntry p mr ron s)
        nextPacketNumber := s.nextPacketNumber + BitVec.ofNat 16 (min n room)
        nextStreamId := nextStreamIdAfter s.nextStreamId
        io := { s.io with
          returned := some { outcome := if n ≤ room then .success else .bufferFull, streamId := s.nextStreamId,
                             fragmentCount := BitVec.ofNat 16 n } } } := by
  dsimp only
  rw [sendFragmented_of_le p mr ron hn, List.range_eq_range', sendFragments_range' p _ _ mr ron _ 0 (takeStreamId s) hq]
  simp only [Nat.zero_add]
  rfl

/-- A fragmented send returns `Success` only if its fragments can be counted and the queue has room for all of them. -/
theorem room_of_sendFragmented_success (hpos : 0 < fragmentCount s.cfg p.length)
    (h : (sendFragmented p mr ron s).io.returned.map (fun r => r.outcome) = some .success) :
    fragmentCount s.cfg p.length ≤ 65535 ∧
      fragmentCount s.cfg p.length ≤ s.cfg.maxQueuedPackets - s.txq.length := by
  have hn : fragmentCount s.cfg p.length ≤ 65535 := by
    by_contra hmany
    rw [sendFragmented_of_too_many p mr ron (by omega)] at h
    cases h
  refine ⟨hn, ?_⟩
  by_cases hq : s.txq.length ≤ s.cfg.maxQueuedPackets
  · by_contra hroom
    rw [sendFragmented_eq p mr ron hq hn] at h
    simp [hroom] at h
  · have hfull : (takeStreamId s).cfg.maxQueuedPackets ≤ (takeStreamId s).txq.length := by
      rw [takeStreamId_cfg, takeStreamId_txq]
      omega
    rw [sendFragmented_of_le p mr ron hn, sendFragments_of_full p mr ron _ _ (by simp; omega) hfull] at h
    cases h

end

/-! The fragments of a payload (R154, R157). -/

theorem maxPayload_pos_of_valid {c : Config} (hc : c.Valid) : 0 < c.maxPayload := by
  obtain ⟨hmin, -⟩ := hc
  rw [maxPayload_eq]
  omega

/-- `N = ceil(L / MaxPayload)`: the indices below it are those of the fragments that hold a byte. -/
theorem lt_fragmentCount_iff {c : Config} (hc : 0 < c.maxPayload) (i len : Nat) :
    i < fragmentCount c len ↔ i * c.maxPayload < len := by
  rw [fragmentCount, ← Nat.succ_le_iff, Nat.le_div_iff_mul_le hc, Nat.succ_mul]
  omega

theorem length_le_fragmentCount_mul {c : Config} (hc : 0 < c.maxPayload) (len : Nat) :
    len ≤ fragmentCount c len * c.maxPayload :=
  not_lt.1 (mt (lt_fragmentCount_iff hc _ len).2 (lt_irrefl _))

theorem fragment_length (c : Config) (p : List Byte) (i : Nat) :
    (fragment c p i).length = min c.maxPayload (p.length - i * c.maxPayload) := by
  simp [fragment]

/-- The first `n` fragments joined are the payload's first `n * MaxPayload` bytes. -/
theorem flatten_map_fragment (c : Config) (p : List Byte) (n : Nat) :
    ((List.range n).map (fragment c p)).flatten = p.take (n * c.maxPayload) := by
  induction n with
  | zero => simp
  | succ n ih => simp [List.range_succ, ih, fragment, Nat.succ_mul, List.take_add]

/-- All fragments joined are the payload. -/
theorem flatten_map_fragment_fragmentCount {c : Config} (hc : 0 < c.maxPayload) (p : List Byte) :
    ((List.range (fragmentCount c p.length)).map (fragment c p)).flatten = p := by
  rw [flatten_map_fragment, List.take_of_length_le (length_le_fragmentCount_mul hc _)]

/-- An entry of a fragmented send is of its index, of the stream id taken and of the number of fragments; it is full
where a further fragment follows, and never empty (R157). -/
theorem fragmentEntry_fields {s : State} (hc : s.cfg.Valid) {p : List Byte} {i : Nat}
    (hn : fragmentCount s.cfg p.length ≤ 65535) (hi : i < fragmentCount s.cfg p.length) (mr : U8) (ron : Bool) :
    let e := fragmentEntry p mr ron s i
    e.header.type = .fragmentData ∧ e.header.totalFragments.toNat = fragmentCount s.cfg p.length ∧
      e.header.fragmentIndex.toNat = i ∧ e.header.streamId = s.nextStreamId ∧
      e.header.payloadSize.toNat = e.payload.length ∧
      (i + 1 < fragmentCount s.cfg p.length → e.payload.length = s.cfg.maxPayload) ∧ 1 ≤ e.payload.length := by
  have hpos := maxPayload_pos_of_valid hc
  have hlen : (fragmentEntry p mr ron s i).payload.length = _ := fragment_length s.cfg p i
  have hsize := payload_length_lt hc (fragment_length_le s.cfg p i)
  have hbyte := (lt_fragmentCount_iff hpos _ _).1 hi
  refine ⟨rfl, Nat.mod_eq_of_lt (by omega), Nat.mod_eq_of_lt (by omega), rfl, Nat.mod_eq_of_lt hsize, fun hnext => ?_, ?_⟩
  · have hfull := (lt_fragmentCount_iff hpos _ _).1 hnext
    rw [Nat.succ_mul] at hfull
    omega
  · omega

end Sys2Proof.Machine

namespace Sys2Proof.Proofs

open Sys2Proof.Machine

/-- Settles O29: the loop of R154 runs on the queue as it was, with the stream id taken. -/
theorem sendOfFragments : Obligations.SendOfFragments := by
  refine fun p mr ron s hp hq => ⟨fun hmany => ?_, fun hn => ?_⟩
  · rw [exec_send, sendData_of_oversize p mr ron hp, sendFragmented_of_too_many p mr ron hmany]
    rfl
  · rw [exec_send, sendData_of_oversize p mr ron hp, sendFragmented_eq p mr ron hq hn]
    rfl

/-- Settles O30: `Success` says that there was room for every fragment, so the entries are those of all indices below
`ceil(L / MaxPayload)`. -/
theorem fragmentationIsComplete : Obligations.FragmentationIsComplete := by
  intro p mr ron s t hc hp h hsuccess
  rw [exec_send, sendData_of_oversize p mr ron hp] at h
  cases h
  have hpos := maxPayload_pos_of_valid hc
  have hcount : 0 < fragmentCount s.cfg p.length := (lt_fragmentCount_iff hpos _ _).2 (by omega)
  obtain ⟨hn, hroom⟩ := room_of_sendFragmented_success p mr ron hcount hsuccess
  refine ⟨(List.range (fragmentCount s.cfg p.length)).map (fragmentEntry p mr ron s), ?queue, ?lower, ?upper, ?joined,
    fun i e he => ?entry⟩
  case queue =>
    rw [sendFragmented_eq p mr ron (by omega) hn]
    simp only [Nat.min_eq_left hroom]
  case lower =>
    rw [List.length_map, List.length_range]
    exact (lt_fragmentCount_iff hpos _ _).1 (by omega)
  case upper =>
    rw [List.length_map, List.length_range]
    exact length_le_fragmentCount_mul hpos _
  case joined =>
    rw [List.map_map]
    exact flatten_map_fragment_fragmentCount hpos p
  case entry =>
    rw [List.getElem?_map, Option.map_eq_some_iff] at he
    obtain ⟨j, hj, rfl⟩ := he
    obtain ⟨hi, rfl⟩ := List.getElem?_eq_some_iff.1 hj
    rw [List.length_range] at hi
    simpa using fragmentEntry_fields hc hn hi mr ron

/-- Settles O28: the entry of R153, or the condition E3. -/
theorem sendOfOnePacket : Obligations.SendOfOnePacket := by
  intro p mr ron s hp
  have hone : exec (.send p mr ron) s = .next (sendOne .singleData p mr ron s) := congrArg _ (if_pos hp)
  refine ⟨fun hroom => ?_, fun hfull => ?_⟩
  · rw [hone, sendOne_of_room _ p mr ron hroom]
    rfl
  · rw [hone, sendOne_of_full _ p mr ron hfull]
    rfl

/-- Settles O31: an oversize payload and a full queue both meet the condition E3. -/
theorem sendNoAckOutcomes : Obligations.SendNoAckOutcomes := by
  intro p s
  refine ⟨fun hp hroom => ?_, fun h => ?_⟩
  · rw [exec_sendNoAck, sendUnacknowledged, if_pos hp, sendOne_of_room _ p 0 false hroom]
    rfl
  · have hraise : sendUnacknowledged p s = raise (.bufferFull 0 0) s := by
      unfold sendUnacknowledged
      split
      · exact sendOne_of_full _ p 0 false (by omega)
      · rfl
    rw [exec_sendNoAck, hraise]
    rfl

/-- Settles O27: the two cases of a reply, told apart by the room there is. -/
theorem replyIsQueuedOrDropped : Obligations.ReplyIsQueuedOrDropped := by
  intro t pn s
  obtain ⟨hroom, heq⟩ | ⟨hfull, heq⟩ := reply_cases t pn s
  · exact ⟨fun _ => heq, fun hfull => absurd hroom (not_lt.2 hfull)⟩
  · exact ⟨fun hroom => absurd hroom (not_lt.2 hfull), fun _ => heq⟩

end Sys2Proof.Proofs
end

section
/-! PROOF. `PROCESS` (R160 to R165): the next state with nothing to send and with a packet, the packet kept while the
transport fails, and what the matcher finds of a packet the transport took. -/

namespace Sys2Proof.Machine

/-! The steps of `PROCESS`, as the next state whole. -/

/-- Step (b) of `PROCESS` (R162) writes the current slot and makes the call. -/
theorem handOff_eq (frame : List Byte) (s : State) :
    handOff frame s = { s with cur := if txAnswer s then none else s.cur, io := (callTx frame s).io } := by
  unfold handOff
  split <;> rfl

/-- Step (c) of `PROCESS` (R165, R190), and nothing returned. -/
theorem finishProcess_eq (s : State) :
    finishProcess s =
      { s with
        streams := sweptTable s.cfg s.tick s.streams
        io := { s.io with
          events := s.io.events ++ timeoutCalls s.cfg s.tick s.streams
          returned := none } } := by
  rw [finishProcess, sweepTimeouts_eq]
  rfl

/-- The packet of `PROCESS` (R161): the one in the current slot, or else the one at the head of the queue, and the packets
behind it. -/
abbrev OffersPacket (s : State) (e : PendingPacket) (rest : List PendingPacket) : Prop :=
  (s.cur = some e ∧ s.txq = rest) ∨ (s.cur = none ∧ s.txq = e :: rest)

theorem fillCurrent_of_cur_none_txq_nil {s : State} (hcur : s.cur = none) (hq : s.txq = []) : fillCurrent s = s := by
  simp only [fillCurrent, hcur, hq]

theorem fillCurrent_of_offersPacket {s : State} {e : PendingPacket} {rest : List PendingPacket}
    (h : OffersPacket s e rest) : fillCurrent s = { s with cur := some e, txq := rest } := by
  obtain ⟨hcur, rfl⟩ | ⟨hcur, hq⟩ := h
  · rw [fillCurrent_of_cur_eq_some hcur, ← hcur]
  · simp only [fillCurrent, hcur, hq]

/-- `Encode` is defined on a packet that meets R29 (R101). -/
theorem encodeFrame_of_packetOk {c : Config} {e : PendingPacket} (he : PacketOk c e) :
    encodeFrame c e.header e.payload = some (frameBytes c e.header e.payload) := by
  obtain ⟨henc, -, -⟩ := he
  exact if_pos henc

/-- `PROCESS` on a packet `Encode` is defined for. -/
theorem exec_process_of_offersPacket {s : State} {e : PendingPacket} {rest : List PendingPacket} {frame : List Byte}
    (h : OffersPacket s e rest) (henc : encodeFrame s.cfg e.header e.payload = some frame) :
    exec .process s =
      .next (finishProcess (handOff frame { advanceTick s with cur := some e, txq := rest })) := by
  have hfill := fillCurrent_of_offersPacket (s := advanceTick s) h
  have hframe : currentFrame { advanceTick s with cur := some e, txq := rest } = some (some frame) :=
    congrArg some henc
  rw [exec_process, execProcess_eq, hfill, hframe]

/-! The sweep makes no `TX` call (R190). -/

theorem filter_isTx_timeoutCalls (c : Config) (now : U32) (xs : List StreamSlot) :
    (timeoutCalls c now xs).filter isTx = [] := by
  rw [timeoutCalls, List.filter_map, List.map_eq_nil_iff]
  exact List.filter_eq_nil_iff.2 fun x _ => Bool.false_ne_true

/-! The matcher on a queue with no entry it is for (R207). -/

theorem onAckOrNack_of_no_match (isNack : Bool) {pn : U16} {s : State}
    (h : ∀ e ∈ s.txq, e.header.packetNumber = pn → e.header.type ≠ .singleData ∧ e.header.type ≠ .fragmentData) :
    onAckOrNack isNack pn s = s := by
  have hno : ∀ e ∈ s.txq, answers pn e = false := by
    intro e he
    rw [answers_eq_decide, decide_eq_false_iff_not]
    rintro ⟨hpn, htype⟩
    obtain ⟨hsingle, hfragment⟩ := h e he hpn
    exact htype.elim hsingle hfragment
  have hkeep : s.txq.filter (fun e => !answers pn e) = s.txq :=
    List.filter_eq_self.2 fun e he => by rw [hno e he]; rfl
  have hnone (g : PendingPacket → Bool) : s.txq.filter (fun e => answers pn e && g e) = [] :=
    List.filter_eq_nil_iff.2 fun e he => by simp [hno e he]
  cases isNack with
  | false =>
    have hfound : s.txq.filter (answers pn) = [] := by simpa using hnone fun _ => true
    rw [onAckOrNack, matchEntries_ack, hkeep, hfound]
    simp
  | true =>
    rw [onAckOrNack, matchEntries_nack, hkeep, hnone, hnone]
    simp

/-! A transport that fails (R164). -/

/-- `PROCESS` on a packet in the current slot while `TX` answers failure (R162, R164): the slot and the queue stay, the
next answer is the one listed behind, and the packet's frame is the one `TX` call made. -/
theorem exec_process_of_failure {s : State} {e : PendingPacket} (hcur : s.cur = some e) (he : PacketOk s.cfg e)
    {l : List Bool} (hans : s.io.txAnswers = false :: l) :
    ∃ t evs, exec .process s = .next t ∧ t.cfg = s.cfg ∧ t.cur = some e ∧ t.txq = s.txq ∧ t.io.txAnswers = l ∧
      t.io.events = s.io.events ++ evs ∧ evs.filter isTx = [.tx (frameBytes s.cfg e.header e.payload)] := by
  have hexec := exec_process_of_offersPacket (.inl ⟨hcur, rfl⟩) (encodeFrame_of_packetOk he)
  have hfail : txAnswer { advanceTick s with cur := some e, txq := s.txq } = false := txAnswer_listed _ false l hans
  rw [finishProcess_eq, handOff_eq, hfail] at hexec
  refine ⟨_, _, hexec, rfl, rfl, rfl, ?_, List.append_assoc .., ?_⟩
  · simp [hans]
  · rw [List.filter_append, filter_isTx_timeoutCalls]
    rfl

end Sys2Proof.Machine

namespace Sys2Proof.Proofs

open Sys2Proof.Machine

/-- Settles O33: with no packet the slot stays empty, and the sweep is all that is left. -/
theorem processWithNothingToSend : Obligations.ProcessWithNothingToSend := by
  intro s hcur hq
  have hfill : fillCurrent (advanceTick s) = advanceTick s := fillCurrent_of_cur_none_txq_nil (s := advanceTick s) hcur hq
  have hframe : currentFrame (advanceTick s) = none := by simp [currentFrame, hcur]
  rw [exec_process, execProcess_eq, hfill, hframe]
  exact congrArg _ (finishProcess_eq _)

/-- Settles O34: the packet's frame is the one `Encode` answers, and the answer of `TX` is that of the state before, since
neither the tick nor the move to the slot asks for one. -/
theorem processOffersOnePacket : Obligations.ProcessOffersOnePacket := by
  intro s e rest h hsize hmax
  have henc := (encodeFrame_eq_some s.cfg e.header e.payload _).2 ⟨⟨hsize, hmax⟩, rfl⟩
  rw [exec_process_of_offersPacket h henc, finishProcess_eq, handOff_eq]
  rfl

/-- Settles O36, by induction on the number of failing calls. -/
theorem failingTransportIsOfferedAgain : Obligations.FailingTransportIsOfferedAgain := by
  intro k
  induction k with
  | zero => exact fun s e hcur _ _ _ => ⟨s, rfl, hcur, rfl, [], by simp, rfl⟩
  | succ k ih =>
    intro s e hcur he hlen hfail
    cases hans : s.io.txAnswers with
    | nil => simp [hans] at hlen
    | cons a l =>
      simp only [hans, List.length_cons, List.take_succ_cons, List.forall_mem_cons] at hlen hfail
      obtain ⟨rfl, hfail⟩ := hfail
      obtain ⟨u, evs, hu, hcfg, hucur, huq, rfl, huevents, hutx⟩ := exec_process_of_failure hcur he hans
      obtain ⟨t, ht, htcur, htq, evs', htevents, httx⟩ := ih u e hucur (hcfg ▸ he) (by omega) hfail
      refine ⟨t, ?_, htcur, htq.trans huq, evs ++ evs', ?_, ?_⟩
      · rw [processTimes, hu]
        exact ht
      · rw [htevents, huevents, List.append_assoc]
      · rw [List.filter_append, hutx, httx, hcfg, List.replicate_succ]
        rfl

/-- Settles O38: the queue left behind is the rest, where nothing answers to the packet's number. -/
theorem ackAfterHandOffFindsNothing : Obligations.AckAfterHandOffFindsNothing := by
  intro s e rest sid tf fi p h he hans hrest
  have hexec := exec_process_of_offersPacket h (encodeFrame_of_packetOk he)
  rw [finishProcess_eq, handOff_eq] at hexec
  exact ⟨_, hexec, if_pos hans, rfl, congrArg _ (onAckOrNack_of_no_match false hrest),
    congrArg _ (onAckOrNack_of_no_match true hrest)⟩

end Sys2Proof.Proofs
end

section
/-! PROOF. The reception of a fragment (R180 to R189): which slot it works on, the state it finds there, and the next state
whole. -/

namespace Sys2Proof.Machine

/-! The greatest age and the victim (R183). -/

theorem greatestAge_le {now : U32} {n : Nat} {xs : List StreamSlot} (h : ∀ x ∈ xs, slotAge now x ≤ n) :
    greatestAge now xs ≤ n := by
  induction xs with
  | nil => exact Nat.zero_le n
  | cons x xs ih =>
    obtain ⟨hx, hxs⟩ := List.forall_mem_cons.1 h
    exact max_le hx (ih hxs)

theorem slotAge_le_greatestAge (now : U32) {x : StreamSlot} {xs : List StreamSlot} (h : x ∈ xs) :
    slotAge now x ≤ greatestAge now xs := by
  induction xs with
  | nil => exact absurd h List.not_mem_nil
  | cons y ys ih =>
    obtain rfl | h := List.mem_cons.1 h
    · exact le_max_left _ _
    · exact (ih h).trans (le_max_right _ _)

/-- The victim is the slot whose age no slot exceeds and no lower slot reaches. -/
theorem victimSlot_eq {now : U32} {xs : List StreamSlot} {k : Nat} {x : StreamSlot} (hk : xs[k]? = some x)
    (hmax : ∀ y ∈ xs, slotAge now y ≤ slotAge now x)
    (hlow : ∀ j < k, ∀ y, xs[j]? = some y → slotAge now y < slotAge now x) : victimSlot now xs = k := by
  have hage : greatestAge now xs = slotAge now x :=
    le_antisymm (greatestAge_le hmax) (slotAge_le_greatestAge now (List.mem_of_getElem? hk))
  obtain ⟨hlt, rfl⟩ := List.getElem?_eq_some_iff.1 hk
  rw [victimSlot, hage, List.findIdx_eq hlt]
  refine ⟨beq_self_eq_true _, fun j hj => beq_eq_false_iff_ne.2 ?_⟩
  exact (hlow j hj _ (List.getElem?_eq_getElem (hj.trans hlt))).ne

/-! Which slot is allocated, and how (R183). -/

/-- A search for the lowest free slot ends at the first slot that is free. -/
theorem findIdx?_completed_eq_some {xs : List StreamSlot} {k : Nat} {x : StreamSlot} (hk : xs[k]? = some x)
    (hfree : x.completed = true) (hlow : ∀ j < k, ∀ y, xs[j]? = some y → y.completed = false) :
    xs.findIdx? (fun y => y.completed) = some k := by
  obtain ⟨hlt, rfl⟩ := List.getElem?_eq_some_iff.1 hk
  refine List.findIdx?_eq_some_iff_getElem.2 ⟨hlt, hfree, fun j hj => ?_⟩
  simp [hlow j hj _ (List.getElem?_eq_getElem (hj.trans hlt))]

section
variable {sid : U32} {s : State}

theorem streamSlotFor_of_lookupStream_eq_some {k : Nat} (hl : lookupStream sid s = some k) : streamSlotFor sid s = k := by
  rw [streamSlotFor, hl, Option.getD_some]

theorem streamSlotFor_of_lookupStream_eq_none (hl : lookupStream sid s = none) : streamSlotFor sid s = allocatedSlot s := by
  rw [streamSlotFor, hl, Option.getD_none]

theorem openStream_of_lookupStream_eq_some {k : Nat} (hl : lookupStream sid s = some k) (tf : U16) :
    openStream sid tf s = s := by
  simp only [openStream, hl]

theorem openStream_of_lookupStream_eq_none (hl : lookupStream sid s = none) (tf : U16) :
    openStream sid tf s = allocateStream sid tf s := by
  simp only [openStream, hl]

theorem allocatedSlot_of_free {k : Nat} (hf : s.streams.findIdx? (fun y => y.completed) = some k) : allocatedSlot s = k := by
  simp only [allocatedSlot, hf]

theorem allocateStream_of_free {k : Nat} (hf : s.streams.findIdx? (fun y => y.completed) = some k) (tf : U16) :
    allocateStream sid tf s = setSlot k (freshSlot sid tf s.tick) s := by
  simp only [allocateStream, hf]

theorem allocatedSlot_of_full (hf : s.streams.findIdx? (fun y => y.completed) = none) :
    allocatedSlot s = victimSlot s.tick s.streams := by
  simp only [allocatedSlot, hf]

/-- With no free slot the victim's stream is reported before its slot is written (R183, E6). -/
theorem allocateStream_of_full (hf : s.streams.findIdx? (fun y => y.completed) = none) (tf : U16) :
    allocateStream sid tf s =
      setSlot (victimSlot s.tick s.streams) (freshSlot sid tf s.tick)
        (callComplete (slotAt s (victimSlot s.tick s.streams)).streamId .error s) := by
  simp only [allocateStream, hf, raise_streamEvicted, completeSlot_eq]
  exact setSlot_setSlot _ _ { slotAt s (victimSlot s.tick s.streams) with completed := true }
    (callComplete (slotAt s (victimSlot s.tick s.streams)).streamId .error s)

end

/-! The next state of a reception (R180). -/

section
variable (pn : U16) (sid : U32) (tf fi : U16) (p : List Byte)

theorem exec_fragmentData (s : State) : exec (.fragmentData pn sid tf fi p) s = .next (receiveFragment pn sid tf fi p s) := rfl

variable {fi tf}

/-- R181: an index that is not below the total is answered before any lookup. -/
theorem receiveFragment_of_index_ge (hfi : tf.toNat ≤ fi.toNat) (s : State) :
    receiveFragment pn sid tf fi p s = reply .nack pn s := by
  rw [receiveFragment, if_neg (by bv_omega), raise_fragmentIndexOutOfRange]

variable {s t : State} {k : Nat}

/-- R184: the slot found records another total. -/
theorem receiveFragment_of_total_ne (hfi : fi.toNat < tf.toNat) (hk : streamSlotFor sid s = k)
    (ht : openStream sid tf s = t) (htf : (slotAt t k).totalFragments ≠ tf) :
    receiveFragment pn sid tf fi p s = reply .nack pn t := by
  subst hk ht
  rw [receiveFragment, if_pos (by bv_omega)]
  exact if_neg htf

/-- R185: the slot found records the fragment's total. -/
theorem receiveFragment_of_total_eq (hfi : fi.toNat < tf.toNat) (hk : streamSlotFor sid s = k)
    (ht : openStream sid tf s = t) (htf : (slotAt t k).totalFragments = tf) :
    receiveFragment pn sid tf fi p s = deliverFragment k pn sid tf fi p t := by
  subst hk ht
  rw [receiveFragment, if_pos (by bv_omega)]
  exact if_pos htf

/-- A delivery to an active slot of the fragment's stream and total leaves the state the statements write. -/
theorem deliverFragment_eq_afterFragment {x : StreamSlot} (hk : s.streams[k]? = some x) (hactive : x.completed = false)
    (hsid : x.streamId = sid) (htf : x.totalFragments = tf) :
    deliverFragment k pn sid tf fi p s = afterFragment k [] pn sid tf fi p s := by
  obtain ⟨hlt, -⟩ := List.getElem?_eq_some_iff.1 hk
  rw [deliverFragment_eq _ _ _ _ _ _ _ hlt, slotAt_of_getElem? s k x hk, reply_eq_queueAfterReply]
  simp only [afterFragment, fragmentCalls, isLastFragment, hactive, hsid, htf, beq_iff_eq, Bool.or_false, List.append_nil]

/-- What a delivery leaves does not depend on what slot `k` held before. -/
theorem afterFragment_setSlot (before : List Event) (y : StreamSlot) :
    afterFragment k before pn sid tf fi p (setSlot k y s) = afterFragment k before pn sid tf fi p s := by
  simp only [afterFragment, setSlot_streams, List.set_set]
  rfl

/-- A report made before a delivery is one of the calls before it. -/
theorem afterFragment_callComplete (before : List Event) (old : U32) (r : CompletionResult) :
    afterFragment k before pn sid tf fi p (callComplete old r s) =
      afterFragment k (.complete old r :: before) pn sid tf fi p s := by
  simp only [afterFragment, callComplete_io, List.append_assoc, List.cons_append]
  rfl

/-- The delivery of an unseen stream's fragment: slot `k` was written afresh for it in state `t` (R183). -/
theorem receiveFragment_of_fresh (hfi : fi.toNat < tf.toNat) (hk : streamSlotFor sid s = k) (hlt : k < t.streams.length)
    {now : U32} (ht : openStream sid tf s = setSlot k (freshSlot sid tf now) t) :
    receiveFragment pn sid tf fi p s = afterFragment k [] pn sid tf fi p t := by
  have hslot : (setSlot k (freshSlot sid tf now) t).streams[k]? = some (freshSlot sid tf now) :=
    List.getElem?_set_self hlt
  have htotal : (slotAt (setSlot k (freshSlot sid tf now) t) k).totalFragments = tf := by
    rw [slotAt_setSlot_self _ _ _ hlt, freshSlot]
  rw [receiveFragment_of_total_eq pn sid p hfi hk ht htotal,
    deliverFragment_eq_afterFragment (tf := tf) pn sid p hslot rfl rfl rfl, afterFragment_setSlot]

end

end Sys2Proof.Machine

namespace Sys2Proof.Proofs

open Sys2Proof.Machine

/-- Settles O18: the index is checked first. -/
theorem fragmentIndexOutOfRangeIsNacked : Obligations.FragmentIndexOutOfRangeIsNacked := by
  intro pn sid tf fi p s hfi
  rw [exec_fragmentData, receiveFragment_of_index_ge pn sid p hfi, reply_eq_queueAfterReply]

/-- Settles O19: the lookup finds slot `k` and opens nothing, and the total is checked before anything is written. -/
theorem fragmentTotalMismatchIsNacked : Obligations.FragmentTotalMismatchIsNacked := by
  intro pn sid tf fi p s k x hfi hk hactive hsid htf hlow
  have hl := lookupStream_eq_some sid s k x hk hactive hsid hlow
  have htotal : (slotAt s k).totalFragments ≠ tf := by rwa [slotAt_of_getElem? s k x hk]
  rw [exec_fragmentData, receiveFragment_of_total_ne pn sid p hfi (streamSlotFor_of_lookupStream_eq_some hl)
    (openStream_of_lookupStream_eq_some hl tf) htotal, reply_eq_queueAfterReply]

/-- Settles O20: the lookup finds slot `k` and opens nothing, and the delivery works on it. -/
theorem fragmentJoinsItsActiveStream : Obligations.FragmentJoinsItsActiveStream := by
  intro pn sid tf fi p s k x hfi hk hactive hsid htf hlow
  have hl := lookupStream_eq_some sid s k x hk hactive hsid hlow
  have htotal : (slotAt s k).totalFragments = tf := by rwa [slotAt_of_getElem? s k x hk]
  rw [exec_fragmentData, receiveFragment_of_total_eq pn sid p hfi (streamSlotFor_of_lookupStream_eq_some hl)
    (openStream_of_lookupStream_eq_some hl tf) htotal, deliverFragment_eq_afterFragment pn sid p hk hactive hsid htf]

/-- Settles O21: the lookup fails, and the lowest free slot is written and delivered to. -/
theorem fragmentOpensLowestFreeSlot : Obligations.FragmentOpensLowestFreeSlot := by
  intro pn sid tf fi p s k x hfi hunseen hk hfree hlow
  have hl := lookupStream_eq_none sid s hunseen
  have hf := findIdx?_completed_eq_some hk hfree hlow
  obtain ⟨hlt, -⟩ := List.getElem?_eq_some_iff.1 hk
  have hslot : streamSlotFor sid s = k := (streamSlotFor_of_lookupStream_eq_none hl).trans (allocatedSlot_of_free hf)
  have hopen := (openStream_of_lookupStream_eq_none hl tf).trans (allocateStream_of_free hf tf)
  rw [exec_fragmentData, receiveFragment_of_fresh pn sid p hfi hslot hlt hopen]

/-- Settles O22: the lookup fails and no slot is free, so the victim, slot `k`, is reported, written and delivered to. -/
theorem fragmentEvictsLeastRecentlyActive : Obligations.FragmentEvictsLeastRecentlyActive := by
  intro pn sid tf fi p s k x hfi hfull hk hmax hlow
  have hl := lookupStream_eq_none sid s fun y hy _ => (hfull y hy).2
  have hf : s.streams.findIdx? (fun y => y.completed) = none := List.findIdx?_eq_none_iff.2 fun y hy => (hfull y hy).1
  have hvictim : victimSlot s.tick s.streams = k := victimSlot_eq hk hmax hlow
  obtain ⟨hlt, -⟩ := List.getElem?_eq_some_iff.1 hk
  have hslot : streamSlotFor sid s = k :=
    (streamSlotFor_of_lookupStream_eq_none hl).trans ((allocatedSlot_of_full hf).trans hvictim)
  have hopen := (openStream_of_lookupStream_eq_none hl tf).trans (allocateStream_of_full hf tf)
  rw [hvictim, slotAt_of_getElem? s k x hk] at hopen
  rw [exec_fragmentData, receiveFragment_of_fresh (t := callComplete x.streamId .error s) pn sid p hfi hslot hlt hopen,
    afterFragment_callComplete]

end Sys2Proof.Proofs
end

section
/-! PROOF. The timeout of a stream (R190, R191): what the sweep leaves of one slot, how often it reports one id, and
`PROCESS` after `PROCESS` on a stream that no fragment refreshes. -/

namespace Sys2Proof.Machine

/-! One slot through the sweep (R190). -/

theorem getElem?_sweptTable {c : Config} {now : U32} {xs : List StreamSlot} {k : Nat} {x : StreamSlot}
    (hk : xs[k]? = some x) :
    (sweptTable c now xs)[k]? = some (if pastThreshold c now x then { x with completed := true } else x) := by
  rw [sweptTable, List.getElem?_map, hk]
  rfl

theorem pastThreshold_iff (c : Config) (now : U32) (x : StreamSlot) :
    pastThreshold c now x = true ↔ isActive x = true ∧ c.streamTimeoutTicks < slotAge now x := by
  simp [pastThreshold_eq_isExpired, isExpired]

/-- A free slot stays as it is. -/
theorem getElem?_sweptTable_of_completed {c : Config} {now : U32} {xs : List StreamSlot} {k : Nat} {x : StreamSlot}
    (hk : xs[k]? = some x) (hfree : x.completed = true) : (sweptTable c now xs)[k]? = some x := by
  rw [getElem?_sweptTable hk, if_neg]
  simp [pastThreshold_iff, isActive, hfree]

/-- The slots still active after a sweep are slots it passed over. -/
theorem mem_of_mem_sweptTable {c : Config} {now : U32} {xs : List StreamSlot} {y : StreamSlot}
    (hy : y ∈ sweptTable c now xs) (ha : isActive y = true) : y ∈ xs ∧ ¬ pastThreshold c now y = true := by
  obtain ⟨x, hx, rfl⟩ := List.mem_map.1 hy
  split at ha
  · cases ha
  · rename_i hp
    rw [if_neg hp]
    exact ⟨hx, hp⟩

/-- An age below the wrap grows by one with the tick, whether or not the tick itself wraps (R190). -/
theorem slotAge_succ {now : U32} {x : StreamSlot} (h : slotAge now x + 1 < 2 ^ 32) :
    slotAge (now + 1) x = slotAge now x + 1 := by
  unfold slotAge at h ⊢
  bv_omega

/-! How often a sweep reports one id. -/

/-- The ids a sweep at tick `now` reports, in slot order. -/
def timedOutIds (c : Config) (now : U32) (xs : List StreamSlot) : List U32 :=
  (xs.filter (pastThreshold c now)).map fun x => x.streamId

theorem count_timeoutCalls (c : Config) (now : U32) (xs : List StreamSlot) (sid : U32) :
    (timeoutCalls c now xs).count (.complete sid .timeout) = (timedOutIds c now xs).count sid := by
  have hinj : Function.Injective fun sid : U32 => Event.complete sid .timeout := fun _ _ h => by injection h
  have hcalls : timeoutCalls c now xs = (timedOutIds c now xs).map fun sid => .complete sid .timeout := by
    rw [timedOutIds, List.map_map]
    rfl
  rw [hcalls]
  exact List.count_map_of_injective _ _ hinj _

theorem mem_timedOutIds_iff (c : Config) (now : U32) (xs : List StreamSlot) (sid : U32) :
    sid ∈ timedOutIds c now xs ↔ ∃ y ∈ xs, pastThreshold c now y = true ∧ y.streamId = sid := by
  simp [timedOutIds, and_assoc]

/-- No id is reported twice: the slots reported were active, and no two of those share an id (R182). -/
theorem timedOutIds_nodup {c : Config} {now : U32} {xs : List StreamSlot}
    (h : ((xs.filter isActive).map fun x => x.streamId).Nodup) : (timedOutIds c now xs).Nodup := by
  refine h.sublist (List.Sublist.map _ (List.monotone_filter_right xs fun y hy => ?_))
  exact ((pastThreshold_iff c now y).1 hy).1

/-- The active slot of an id is the only one. -/
theorem eq_of_mem_of_active_streamId {xs : List StreamSlot} (h : ((xs.filter isActive).map fun x => x.streamId).Nodup)
    {x y : StreamSlot} (hx : x ∈ xs) (hy : y ∈ xs) (hax : isActive x = true) (hay : isActive y = true)
    (hid : x.streamId = y.streamId) : x = y :=
  List.inj_on_of_nodup_map h (List.mem_filter.2 ⟨hx, hax⟩) (List.mem_filter.2 ⟨hy, hay⟩) hid

/-- A sweep reports the id of an active slot once or not at all, as the slot is past the threshold or not. -/
theorem count_timeoutCalls_of_active {c : Config} {now : U32} {xs : List StreamSlot}
    (h : ((xs.filter isActive).map fun x => x.streamId).Nodup) {x : StreamSlot} (hx : x ∈ xs) (ha : isActive x = true) :
    (timeoutCalls c now xs).count (.complete x.streamId .timeout) = if pastThreshold c now x then 1 else 0 := by
  rw [count_timeoutCalls]
  split
  · rename_i hp
    exact List.count_eq_one_of_mem (timedOutIds_nodup h) ((mem_timedOutIds_iff ..).2 ⟨x, hx, hp, rfl⟩)
  · rename_i hp
    refine List.count_eq_zero.2 fun hmem => hp ?_
    obtain ⟨y, hy, hpy, hid⟩ := (mem_timedOutIds_iff ..).1 hmem
    have hay := ((pastThreshold_iff c now y).1 hpy).1
    rwa [eq_of_mem_of_active_streamId h hx hy ha hay hid.symm]

/-- A sweep reports no id that no active slot holds. -/
theorem count_timeoutCalls_of_unheld {c : Config} {now : U32} {xs : List StreamSlot} {sid : U32}
    (h : ∀ y ∈ xs, isActive y = true → y.streamId ≠ sid) :
    (timeoutCalls c now xs).count (.complete sid .timeout) = 0 := by
  rw [count_timeoutCalls, List.count_eq_zero, mem_timedOutIds_iff]
  rintro ⟨y, hy, hp, hid⟩
  exact h y hy ((pastThreshold_iff c now y).1 hp).1 hid

/-! `PROCESS` on a state that meets the invariants. -/

/-- There is nothing to send, or a packet `Encode` is defined for (R29). -/
theorem State.Sound.nothing_or_offersPacket {s : State} (h : s.Sound) :
    (s.cur = none ∧ s.txq = []) ∨ ∃ e rest, OffersPacket s e rest ∧ PacketOk s.cfg e := by
  cases hcur : s.cur with
  | some e => exact .inr ⟨e, s.txq, .inl ⟨hcur, rfl⟩, h.current e hcur⟩
  | none =>
    cases hq : s.txq with
    | nil => exact .inl ⟨rfl, rfl⟩
    | cons e rest =>
      obtain ⟨-, hok⟩ := h.queue
      exact .inr ⟨e, rest, .inr ⟨hcur, hq⟩, hok e (by simp [hq])⟩

/-- It completes, and of the timeouts it reports each is one of the sweep at the new tick (R160, R190). -/
theorem exec_process_of_sound {s : State} (hs : s.Sound) :
    ∃ t evs, exec .process s = .next t ∧ t.io.events = s.io.events ++ evs ∧
      ∀ sid, evs.count (.complete sid .timeout) =
        (timeoutCalls s.cfg (s.tick + 1) s.streams).count (.complete sid .timeout) := by
  obtain ⟨hcur, hq⟩ | ⟨e, rest, hoffers, hok⟩ := hs.nothing_or_offersPacket
  · exact ⟨_, _, Proofs.processWithNothingToSend s hcur hq, rfl, fun _ => rfl⟩
  · refine ⟨_, .tx (frameBytes s.cfg e.header e.payload) :: timeoutCalls s.cfg (s.tick + 1) s.streams,
      exec_process_of_offersPacket hoffers (encodeFrame_of_packetOk hok), ?_, fun sid => List.count_cons_of_ne (by simp)⟩
    rw [finishProcess_eq, handOff_eq]
    simp

/-- One `PROCESS` and `j` more are `j + 1`, and their calls are made in that order. -/
theorem processTimes_succ {j : Nat} {s u t : State} {evs evs' : List Event} (hu : exec .process s = .next u)
    (hevents : u.io.events = s.io.events ++ evs) (ht : processTimes j u = .next t)
    (hevents' : t.io.events = u.io.events ++ evs') :
    processTimes (j + 1) s = .next t ∧ t.io.events = s.io.events ++ (evs ++ evs') := by
  refine ⟨?_, by rw [hevents', hevents, List.append_assoc]⟩
  rw [processTimes, hu]
  exact ht

/-- An id no active slot holds is not reported, and a free slot stays as it is: no `PROCESS` makes a slot active. -/
theorem processTimes_of_unheld (j : Nat) {s : State} (hs : s.Inv) {sid : U32}
    (hunheld : ∀ y ∈ s.streams, isActive y = true → y.streamId ≠ sid) {k : Nat} {x : StreamSlot}
    (hk : s.streams[k]? = some x) (hfree : x.completed = true) :
    ∃ t evs, processTimes j s = .next t ∧ t.io.events = s.io.events ++ evs ∧ t.streams[k]? = some x ∧
      evs.count (.complete sid .timeout) = 0 := by
  induction j generalizing s with
  | zero => exact ⟨s, [], rfl, (List.append_nil _).symm, hk, rfl⟩
  | succ j ih =>
    obtain ⟨-, hsound⟩ := (inv_iff s).1 hs
    obtain ⟨u, evs, hu, hevents, hcount⟩ := exec_process_of_sound hsound
    have hstreams := (exec_process_frame hu).streams
    have hunheld' : ∀ y ∈ u.streams, isActive y = true → y.streamId ≠ sid := fun y hy hay =>
      hunheld y (mem_of_mem_sweptTable (hstreams ▸ hy) hay).1 hay
    have hk' : u.streams[k]? = some x := by rw [hstreams, getElem?_sweptTable_of_completed hk hfree]
    obtain ⟨t, evs', ht, hevents', hslot, hcount'⟩ := ih (exec_inv hs hu) hunheld' hk'
    obtain ⟨hrun, hcalls⟩ := processTimes_succ hu hevents ht hevents'
    refine ⟨t, evs ++ evs', hrun, hcalls, hslot, ?_⟩
    rw [List.count_append, hcount, count_timeoutCalls_of_unheld hunheld, hcount']

/-! An active slot on a state that meets the invariants. -/

section
variable {s : State} {k : Nat} {x : StreamSlot}

theorem slotAge_le_of_inv (hs : s.Inv) (hx : x ∈ s.streams) (ha : isActive x = true) :
    slotAge s.tick x ≤ s.cfg.streamTimeoutTicks := by
  obtain ⟨-, -, -, -, ⟨-, hslots, -⟩, -⟩ := hs
  exact (hslots x hx ha).2

/-- The threshold keeps the age so far from the wrap that the next tick adds one (R9, R190). -/
theorem slotAge_tick_succ_of_inv (hs : s.Inv) (hx : x ∈ s.streams) (ha : isActive x = true) :
    slotAge (s.tick + 1) x = slotAge s.tick x + 1 := by
  have hage := slotAge_le_of_inv hs hx ha
  obtain ⟨⟨-, -, -, -, -, hthreshold, -⟩, -⟩ := hs
  exact slotAge_succ (by omega)

theorem activeIds_nodup_of_inv (hs : s.Inv) : ((s.streams.filter isActive).map fun x => x.streamId).Nodup := by
  obtain ⟨-, -, -, -, ⟨-, -, hids⟩, -⟩ := hs
  exact hids

theorem pastThreshold_iff_of_inv (hs : s.Inv) (hx : x ∈ s.streams) (ha : isActive x = true) :
    pastThreshold s.cfg (s.tick + 1) x = true ↔ s.cfg.streamTimeoutTicks < slotAge s.tick x + 1 := by
  rw [pastThreshold_iff, slotAge_tick_succ_of_inv hs hx ha]
  exact and_iff_right ha

/-- Once the sweep has freed the slot of an id, no active slot holds that id. -/
theorem unheld_of_pastThreshold (hs : s.Inv) (hx : x ∈ s.streams) (ha : isActive x = true)
    (hpast : pastThreshold s.cfg (s.tick + 1) x = true) :
    ∀ y ∈ sweptTable s.cfg (s.tick + 1) s.streams, isActive y = true → y.streamId ≠ x.streamId := by
  intro y hy hay hid
  obtain ⟨hys, hkept⟩ := mem_of_mem_sweptTable hy hay
  rw [eq_of_mem_of_active_streamId (activeIds_nodup_of_inv hs) hys hx hay ha hid] at hkept
  exact hkept hpast

/-- One `PROCESS` frees the slot and reports its id once, or does neither, as the new tick takes it past the threshold or
not (R190). -/
theorem exec_process_of_active (hs : s.Inv) (hk : s.streams[k]? = some x) (ha : isActive x = true) :
    ∃ t evs, exec .process s = .next t ∧ t.io.events = s.io.events ++ evs ∧
      t.streams[k]? = some (if pastThreshold s.cfg (s.tick + 1) x then { x with completed := true } else x) ∧
      evs.count (.complete x.streamId .timeout) = if pastThreshold s.cfg (s.tick + 1) x then 1 else 0 := by
  obtain ⟨-, hsound⟩ := (inv_iff s).1 hs
  obtain ⟨t, evs, ht, hevents, hcount⟩ := exec_process_of_sound hsound
  refine ⟨t, evs, ht, hevents, ?_, ?_⟩
  · rw [(exec_process_frame ht).streams, getElem?_sweptTable hk]
  · rw [hcount, count_timeoutCalls_of_active (activeIds_nodup_of_inv hs) (List.mem_of_getElem? hk) ha]

/-- R191, by induction on the number of `PROCESS` commands: while the age is below the threshold one `PROCESS` takes it one
on and leaves the slot; at the threshold it frees and reports the slot, and none reports it again. -/
theorem processTimes_of_active (j : Nat) (hs : s.Inv) (hk : s.streams[k]? = some x) (ha : isActive x = true) :
    ∃ t evs, processTimes j s = .next t ∧ t.io.events = s.io.events ++ evs ∧
      t.streams[k]? = some (if s.cfg.streamTimeoutTicks < slotAge s.tick x + j then { x with completed := true } else x) ∧
      evs.count (.complete x.streamId .timeout) = if s.cfg.streamTimeoutTicks < slotAge s.tick x + j then 1 else 0 := by
  induction j generalizing s with
  | zero =>
    have hyoung : ¬ s.cfg.streamTimeoutTicks < slotAge s.tick x + 0 :=
      not_lt.2 (slotAge_le_of_inv hs (List.mem_of_getElem? hk) ha)
    exact ⟨s, [], rfl, (List.append_nil _).symm, by rw [if_neg hyoung, hk], by rw [if_neg hyoung]; rfl⟩
  | succ j ih =>
    have hmem := List.mem_of_getElem? hk
    have hpast_iff := pastThreshold_iff_of_inv hs hmem ha
    obtain ⟨u, evs, hu, hevents, hslot, hcount⟩ := exec_process_of_active hs hk ha
    have hframe := exec_process_frame hu
    have hinv := exec_inv hs hu
    by_cases hpast : pastThreshold s.cfg (s.tick + 1) x = true
    · rw [if_pos hpast] at hslot hcount
      have hunheld := unheld_of_pastThreshold hs hmem ha hpast
      rw [← hframe.streams] at hunheld
      obtain ⟨t, evs', ht, hevents', hslot', hcount'⟩ := processTimes_of_unheld j hinv hunheld hslot rfl
      obtain ⟨hrun, hcalls⟩ := processTimes_succ hu hevents ht hevents'
      have hold : s.cfg.streamTimeoutTicks < slotAge s.tick x + (j + 1) := by
        have := hpast_iff.1 hpast
        omega
      refine ⟨t, evs ++ evs', hrun, hcalls, ?_, ?_⟩
      · rw [if_pos hold, hslot']
      · rw [if_pos hold, List.count_append, hcount, hcount']
    · rw [if_neg hpast] at hslot hcount
      obtain ⟨t, evs', ht, hevents', hslot', hcount'⟩ := ih hinv hslot
      obtain ⟨hrun, hcalls⟩ := processTimes_succ hu hevents ht hevents'
      have hshift : slotAge u.tick x + j = slotAge s.tick x + (j + 1) := by
        rw [hframe.tick, slotAge_tick_succ_of_inv hs hmem ha]
        omega
      rw [hframe.cfg, hshift] at hslot' hcount'
      refine ⟨t, evs ++ evs', hrun, hcalls, hslot', ?_⟩
      rw [List.count_append, hcount, hcount', Nat.zero_add]

end

end Sys2Proof.Machine

namespace Sys2Proof.Proofs

open Sys2Proof.Machine

/-- Settles O32: the loop over the table frees and reports slot by slot. -/
theorem sweepReportsExpiredStreams : Obligations.SweepReportsExpiredStreams := sweepTimeouts_eq

/-- Settles O37: the state and the calls of `processTimes_of_active`, on either side of the threshold. -/
theorem streamTimesOutPastThreshold : Obligations.StreamTimesOutPastThreshold := by
  intro j k s x hs hk hactive
  have ha : isActive x = true := by rw [isActive, hactive]; rfl
  obtain ⟨t, evs, ht, hevents, hslot, hcount⟩ := processTimes_of_active j hs hk ha
  refine ⟨t, evs, ht, hevents, fun (hyoung : slotAge s.tick x + j ≤ s.cfg.streamTimeoutTicks) => ?_,
    fun (hold : s.cfg.streamTimeoutTicks < slotAge s.tick x + j) => ?_⟩
  · rw [if_neg (not_lt.2 hyoung)] at hslot hcount
    exact ⟨hslot, List.count_eq_zero.1 hcount⟩
  · rw [if_pos hold] at hslot hcount
    exact ⟨hslot, hcount⟩

end Sys2Proof.Proofs
end

section
/-! PROOF. The acknowledgment matcher (R200 to R208): what an `Ack` and a `Nack` leave of the queue and which calls they
make, that an `Ack` leaves nothing for another one, and that the current slot has no part in either. -/

namespace Sys2Proof.Machine

/-! The two inbound instructions of the matcher (R200): only the number counts. -/

theorem exec_ack (pn : U16) (sid : U32) (tf fi : U16) (p : List Byte) (s : State) :
    exec (.ack pn sid tf fi p) s = .next (onAckOrNack false pn s) := rfl

theorem exec_nack (pn : U16) (sid : U32) (tf fi : U16) (p : List Byte) (s : State) :
    exec (.nack pn sid tf fi p) s = .next (onAckOrNack true pn s) := rfl

/-! The next state of the matcher, its loop started on empty lists (R201). -/

theorem onAckOrNack_ack (pn : U16) (s : State) :
    onAckOrNack false pn s =
      { s with
        txq := s.txq.filter fun e => !answers pn e
        io := { s.io with
          events := s.io.events ++ (s.txq.filter (answers pn)).map fun e => .complete e.header.streamId .success } } := by
  rw [onAckOrNack, matchEntries_ack, List.nil_append, List.append_nil]

theorem onAckOrNack_nack (pn : U16) (s : State) :
    onAckOrNack true pn s =
      { s with
        txq := (s.txq.filter fun e => !answers pn e) ++
          (s.txq.filter fun e => answers pn e && hasBudget e).map (retried s.tick)
        io := { s.io with
          events := s.io.events ++
            (s.txq.filter fun e => answers pn e && !hasBudget e).map
              fun e => .complete e.header.streamId .retryExceeded } } := by
  rw [onAckOrNack, matchEntries_nack, List.nil_append, List.nil_append]

/-! The idempotent `Ack` (R207). -/

theorem answers_eq_false_iff (pn : U16) (e : PendingPacket) :
    answers pn e = false ↔
      (e.header.packetNumber = pn → e.header.type ≠ .singleData ∧ e.header.type ≠ .fragmentData) := by
  rw [answers_eq_decide, decide_eq_false_iff_not, not_and, not_or]

/-- What an `Ack` leaves in the queue, the same `Ack` is not for. -/
theorem answers_eq_false_of_mem_onAckOrNack_ack {pn : U16} {s : State} {e : PendingPacket}
    (h : e ∈ (onAckOrNack false pn s).txq) : answers pn e = false := by
  rw [onAckOrNack_ack] at h
  simpa using (List.mem_filter.1 h).2

theorem onAckOrNack_ack_idem (pn : U16) (s : State) :
    onAckOrNack false pn (onAckOrNack false pn s) = onAckOrNack false pn s :=
  onAckOrNack_of_no_match false fun e he =>
    (answers_eq_false_iff pn e).1 (answers_eq_false_of_mem_onAckOrNack_ack he)

/-! The current slot (R201, R25). -/

theorem onAckOrNack_with_cur (isNack : Bool) (pn : U16) (s : State) (c : Option PendingPacket) :
    onAckOrNack isNack pn { s with cur := c } = { onAckOrNack isNack pn s with cur := c } := by
  cases isNack with
  | false => rw [onAckOrNack_ack, onAckOrNack_ack]
  | true => rw [onAckOrNack_nack, onAckOrNack_nack]

end Sys2Proof.Machine

namespace Sys2Proof.Proofs

open Sys2Proof.Machine

/-- Settles O23: the loop's test is R201's number with R202's types. -/
theorem ackReleasesMatchingEntries : Obligations.AckReleasesMatchingEntries := by
  intro pn sid tf fi p s released
  have htest : answers pn = released := funext (answers_eq_decide pn)
  rw [exec_ack, onAckOrNack_ack, htest]

/-- Settles O24: the loop's tests are R201's number with R202's types, and R203's budget. -/
theorem nackRequeuesOrDropsMatchingEntries : Obligations.NackRequeuesOrDropsMatchingEntries := by
  intro pn sid tf fi p s matched budget
  have htest : answers pn = matched := funext (answers_eq_decide pn)
  have hbudget : hasBudget = budget := rfl
  have hretried : retried s.tick = fun e => { e with retryCount := e.retryCount + 1, enqueueTick := s.tick } := rfl
  rw [exec_nack, onAckOrNack_nack, htest, hbudget, hretried]

/-- Settles O25: a queue with no match is rebuilt as it was, and an `Ack` leaves such a queue. -/
theorem secondAckHasNoEffect : Obligations.SecondAckHasNoEffect := by
  intro pn sid tf fi p s
  refine ⟨fun hno => ⟨?ack, ?nack⟩, fun t ht => ?again⟩
  case ack => rw [exec_ack, onAckOrNack_of_no_match false hno]
  case nack => rw [exec_nack, onAckOrNack_of_no_match true hno]
  case again =>
    rw [exec_ack, Host.Outcome.next.injEq] at ht
    rw [exec_ack, ← ht, onAckOrNack_ack_idem]

/-- Settles O26: the matcher commutes with any change of the current slot. -/
theorem matcherIgnoresCurrentSlot : Obligations.MatcherIgnoresCurrentSlot := by
  intro pn sid tf fi p s c
  refine ⟨⟨_, exec_ack pn sid tf fi p s, ?_⟩, ⟨_, exec_nack pn sid tf fi p s, ?_⟩⟩
  · rw [exec_ack, onAckOrNack_with_cur]
  · rw [exec_nack, onAckOrNack_with_cur]

end Sys2Proof.Proofs
end

section
/-! PROOF. The life of a command (R219, R220): a step with nothing to run, and what each kind of command leaves alone and
which calls it makes. -/

namespace Sys2Proof.Machine

/-! A step with nothing to run (R220, log 5). -/

theorem fetchCommand_of_commands_eq_nil {s : State} (hc : s.io.commands = []) : fetchCommand s = .idle := by
  simp only [fetchCommand, hc]

/-- A step that finds no instruction changes nothing. -/
theorem step_of_fetch_idle {s : State} (hf : fetch s = .idle) : step s = .next s := by
  simp only [step, hf]

/-! The sends. -/

/-- Enqueueing and returning leave the ring, the current slot, the slots and the tick, and call no collaborator. -/
theorem Enqueued.unwritten {s t : State} {es : List PendingPacket} (h : Enqueued s es t) :
    t.rx = s.rx ∧ t.cur = s.cur ∧ t.streams = s.streams ∧ t.tick = s.tick ∧ t.io.events = s.io.events := by
  refine ⟨h.rx, h.cur, h.streams, h.tick, ?_⟩
  obtain ⟨r, rfl⟩ := h.state
  rfl

/-! The calls of `PROCESS`. -/

/-- The sweep's calls are `Timeout` reports, one for each id it reports (R190). -/
theorem timeoutCalls_eq_map_timedOutIds (c : Config) (now : U32) (xs : List StreamSlot) :
    timeoutCalls c now xs = (timedOutIds c now xs).map fun sid => .complete sid .timeout := by
  rw [timedOutIds, List.map_map]
  rfl

/-- `PROCESS` calls `TX` at most once, and after that makes the calls of the sweep at the new tick (R160, R162, R165). -/
theorem exec_process_calls {s t : State} (h : exec .process s = .next t) :
    ∃ calls : List Event, (calls = [] ∨ ∃ f, calls = [.tx f]) ∧
      t.io.events = s.io.events ++ calls ++ timeoutCalls s.cfg (s.tick + 1) s.streams := by
  obtain ⟨q, c, hfill, -, -⟩ := fillCurrent_frame (advanceTick s)
  rw [exec_process, execProcess_eq, hfill] at h
  split at h
  case h_1 =>
    cases h
    exact ⟨[], .inl rfl, by simp [finishProcess_eq]⟩
  case h_2 frame _ =>
    cases h
    exact ⟨[.tx frame], .inr ⟨frame, rfl⟩, by simp [finishProcess_eq, handOff_eq]⟩
  case h_3 => cases h

end Sys2Proof.Machine

namespace Sys2Proof.Proofs

open Sys2Proof.Machine

/-- Settles O46: the waiting ring sends `fetch` to the port, which is empty. -/
theorem stepIdlesWithoutCommands : Obligations.StepIdlesWithoutCommands := fun _ hr hc =>
  step_of_fetch_idle ((fetch_of_ringOk hr).trans (fetchCommand_of_commands_eq_nil hc))

/-- Settles O51, from the frame of each kind of command: a send enqueues (after taking a stream id, if it fragments), the
inbound commands keep to the frame of a reception but for the ring, and `PROCESS` ends in the sweep. -/
theorem commandsKeepToTheirEffects : Obligations.CommandsKeepToTheirEffects := by
  refine fun i s t h => ⟨?sends, ?inbound, ?process⟩
  case sends =>
    rintro (⟨p, mr, ron, rfl⟩ | ⟨p, rfl⟩) <;> cases h
    · rcases sendData_enqueued p mr ron s with ⟨es, he⟩ | ⟨-, es, he⟩
      · exact he.unwritten
      · exact he.unwritten
    · obtain ⟨es, he⟩ := sendUnacknowledged_enqueued p s
      exact he.unwritten
  case inbound =>
    intro hi
    have hf : InboundFrame s t := exec_inboundFrame (.inr hi) h
    exact ⟨hf.cur, hf.tick, hf.nextPacketNumber, hf.nextStreamId, hf.calls⟩
  case process =>
    rintro rfl
    have hf : ProcessFrame s t := exec_process_frame h
    obtain ⟨calls, hcalls, hevents⟩ := exec_process_calls h
    rw [timeoutCalls_eq_map_timedOutIds] at hevents
    exact ⟨hf.rx, hf.nextPacketNumber, hf.nextStreamId, calls, _, hevents, hcalls⟩

end Sys2Proof.Proofs
end

section
/-! PROOF. The totality of the instructions (R241): no instruction is without a next state where the invariants hold. -/

namespace Sys2Proof.Machine

/-- An inbound instruction runs in every state, its conditions handled on the way (R230). -/
theorem exec_inbound_continues {i : Instr} (hi : Inbound i) (s : State) : Continues (exec i s) := by
  rcases hi with ⟨h, p, rfl⟩ | ⟨b, rfl⟩ | ⟨bs, rfl⟩
  · exact ⟨_, exec_instrOfFrame h p s⟩
  · exact ⟨_, exec_feed b s⟩
  · exact ⟨_, exec_dataReceived bs s⟩

/-- Every instruction runs where R29 holds of the packets: only `PROCESS` can refuse, and only a packet `Encode` is not
defined for (R101). -/
theorem exec_continues_of_sound (i : Instr) {s : State} (hs : s.Sound) : Continues (exec i s) := by
  rcases instr_cases i with hi | ⟨p, mr, ron, rfl⟩ | ⟨p, rfl⟩ | rfl
  · exact exec_inbound_continues hi s
  · exact ⟨_, exec_send p mr ron s⟩
  · exact ⟨_, exec_sendNoAck p s⟩
  · obtain ⟨t, -, ht, -, -⟩ := exec_process_of_sound hs
    exact ⟨t, ht⟩

end Sys2Proof.Machine

namespace Sys2Proof.Proofs

open Sys2Proof.Machine

/-- Settles O42: every instruction runs, the packets being encodable, and keeps the invariants where it runs. The bound of
R72 on a frame's payload is not needed: a received payload is handed on and never encoded. -/
theorem everyInstructionRunsAndKeepsInvariants : Obligations.EveryInstructionRunsAndKeepsInvariants := by
  intro i s hs _
  obtain ⟨-, hsound⟩ := (inv_iff s).1 hs
  obtain ⟨t, ht⟩ := exec_continues_of_sound i hsound
  exact ⟨t, ht, exec_inv hs ht⟩

end Sys2Proof.Proofs
end

section
/-! PROOF. Construction (R271, R273): which configurations are built, and into which state. -/

namespace Sys2Proof.Machine

/-- A valid configuration is built into its reset state (R271). -/
theorem construct_of_valid {c : Config} (hc : c.Valid) : construct c = .next (State.resetWith c) := if_pos hc

/-- Any other configuration is refused by name (R273, log 13). -/
theorem construct_of_not_valid {c : Config} (hc : ¬ c.Valid) : construct c = .refused .invalidConfiguration := if_neg hc

end Sys2Proof.Machine

namespace Sys2Proof.Proofs

open Sys2Proof.Machine

/-- Settles O40: `construct` tests validity once, and each answer of the test is one clause. -/
theorem constructionRefusesInvalidConfigurations : Obligations.ConstructionRefusesInvalidConfigurations := fun _ =>
  ⟨construct_of_valid, construct_of_not_valid⟩

end Sys2Proof.Proofs
end
